-- ==== Sys2Proof/Word.lean ====
section
/-! DEFINITION. The bit vectors software sees: bytes (samples), halfwords and register words (10_state.md R15, 20_memory.md R46). -/

namespace Sys2Proof

/-- One byte: a sample, or a byte of any window. -/
abbrev Byte := BitVec 8

/-- A 16-bit register field, or one value of the WORK buffer. -/
abbrev Half := BitVec 16

/-- A 32-bit register or bus word. -/
abbrev Word := BitVec 32

end Sys2Proof
end

