-- ==== Sys2Proof/Syntax.lean ====
section
/-! DEFINITION. The commands of the engine: one constructor for each row of spec/opcode_table.json (30_encoding.md R62, R63). -/

namespace Sys2Proof

/-- A command. The operand `blk` of a 4x4 probe is the block index `luma4x4BlkIdx`, 0 to 15 (R61, R73). -/
inductive Instr where
  | nop
  | frameInit
  | predictMb
  | probeI4V (blk : Nat)
  | probeI4H (blk : Nat)
  | probeI4Dc (blk : Nat)
  | probeI4Ddl (blk : Nat)
  | probeI4Ddr (blk : Nat)
  | probeI4Vr (blk : Nat)
  | probeI4Hd (blk : Nat)
  | probeI4Vl (blk : Nat)
  | probeI4Hu (blk : Nat)
  | probeI16V
  | probeI16H
  | probeI16Dc
  | probeI16Plane
  | probeCDc
  | probeCH
  | probeCV
  | probeCPlane
  deriving DecidableEq, Repr

end Sys2Proof
end

