-- ==== Sys2Proof/WellFormed.lean ====
section
/-! DEFINITION. Which commands have an encoding: the block index of a 4x4 probe is one of the sixteen (30_encoding.md R63). -/

namespace Sys2Proof

/-- `BLK` is 0 to 15 (R63). -/
def blkInRange (blk : Nat) : Bool := decide (blk < 16)

/-- The commands a command word can hold (R62, R63). -/
def WellFormed (i : Instr) : Bool :=
  match i with
  | .nop => true
  | .frameInit => true
  | .predictMb => true
  | .probeI4V blk => blkInRange blk
  | .probeI4H blk => blkInRange blk
  | .probeI4Dc blk => blkInRange blk
  | .probeI4Ddl blk => blkInRange blk
  | .probeI4Ddr blk => blkInRange blk
  | .probeI4Vr blk => blkInRange blk
  | .probeI4Hd blk => blkInRange blk
  | .probeI4Vl blk => blkInRange blk
  | .probeI4Hu blk => blkInRange blk
  | .probeI16V => true
  | .probeI16H => true
  | .probeI16Dc => true
  | .probeI16Plane => true
  | .probeCDc => true
  | .probeCH => true
  | .probeCV => true
  | .probeCPlane => true

end Sys2Proof
end

