-- ==== Sys2Proof/Decode.lean ====
section
/-! DEFINITION. The command word (30_encoding.md R61 to R66): its fields, the decoder, total and rejecting by name, and the
encoder, both written from the tables of R62 and R63. -/

namespace Sys2Proof

/-- Bits `lo + len - 1` down to `lo` of a word, as an unsigned number (00_scope.md R7). -/
def bitField (w : Word) (lo len : Nat) : Nat := w.toNat / 2 ^ lo % 2 ^ len

/-- `OP`, bits [3:0] (R61). -/
def fieldOp (w : Word) : Nat := bitField w 0 4
/-- `KIND`, bits [5:4] (R61). -/
def fieldKind (w : Word) : Nat := bitField w 4 2
/-- `RSV0`, bits [7:6] (R61). -/
def fieldRsv0 (w : Word) : Nat := bitField w 6 2
/-- `MODE`, bits [11:8] (R61). -/
def fieldMode (w : Word) : Nat := bitField w 8 4
/-- `BLK`, bits [15:12] (R61). -/
def fieldBlk (w : Word) : Nat := bitField w 12 4
/-- `RSV1`, bits [31:16] (R61). -/
def fieldRsv1 (w : Word) : Nat := bitField w 16 16

/-- Why a word is no command (R64). Every one of them makes the command end with `ERR_CMD`. -/
inductive DecodeError where
  /-- `OP` is 4 to 15. -/
  | reservedOp
  /-- `OP` is 0 to 2 and one of bits [31:4] is set. -/
  | operandBits
  /-- `OP` is 3 and `RSV0` or `RSV1` is not 0. -/
  | reservedBits
  /-- `OP` is 3 and `KIND` is 3. -/
  | reservedKind
  /-- `OP` is 3 and `MODE` is above 8 (`KIND` 0) or above 3 (`KIND` 1, 2). -/
  | reservedMode
  /-- `OP` is 3, `KIND` is 1 or 2 and `BLK` is not 0. -/
  | reservedBlk
  /-- Fewer than the four bytes of a word. -/
  | truncated
  deriving DecidableEq, Repr

/-- The 4x4 probe of mode number `mode` (R60, R63). -/
def decodeProbeI4 (mode blk : Nat) : Except DecodeError Instr :=
  match mode with
  | 0 => .ok (.probeI4V blk)
  | 1 => .ok (.probeI4H blk)
  | 2 => .ok (.probeI4Dc blk)
  | 3 => .ok (.probeI4Ddl blk)
  | 4 => .ok (.probeI4Ddr blk)
  | 5 => .ok (.probeI4Vr blk)
  | 6 => .ok (.probeI4Hd blk)
  | 7 => .ok (.probeI4Vl blk)
  | 8 => .ok (.probeI4Hu blk)
  | _ => .error .reservedMode

/-- The 16x16 probe of mode number `mode` (R60, R63). -/
def decodeProbeI16 (mode blk : Nat) : Except DecodeError Instr :=
  if blk ≠ 0 then .error .reservedBlk
  else match mode with
  | 0 => .ok .probeI16V
  | 1 => .ok .probeI16H
  | 2 => .ok .probeI16Dc
  | 3 => .ok .probeI16Plane
  | _ => .error .reservedMode

/-- The chroma probe of mode number `mode` (R60, R63). -/
def decodeProbeC (mode blk : Nat) : Except DecodeError Instr :=
  if blk ≠ 0 then .error .reservedBlk
  else match mode with
  | 0 => .ok .probeCDc
  | 1 => .ok .probeCH
  | 2 => .ok .probeCV
  | 3 => .ok .probeCPlane
  | _ => .error .reservedMode

/-- A `PROBE` word (R63). -/
def decodeProbe (w : Word) : Except DecodeError Instr :=
  if fieldRsv0 w ≠ 0 ∨ fieldRsv1 w ≠ 0 then .error .reservedBits
  else match fieldKind w with
  | 0 => decodeProbeI4 (fieldMode w) (fieldBlk w)
  | 1 => decodeProbeI16 (fieldMode w) (fieldBlk w)
  | 2 => decodeProbeC (fieldMode w) (fieldBlk w)
  | _ => .error .reservedKind

/-- A command without operand bits: [31:4] must be 0 (R62). -/
def decodePlain (w : Word) (i : Instr) : Except DecodeError Instr :=
  if bitField w 4 28 = 0 then .ok i else .error .operandBits

/-- The command a word stands for, or why it is none (R62 to R64). -/
def decode (w : Word) : Except DecodeError Instr :=
  match fieldOp w with
  | 0 => decodePlain w .nop
  | 1 => decodePlain w .frameInit
  | 2 => decodePlain w .predictMb
  | 3 => decodeProbe w
  | _ => .error .reservedOp

/-- Four bytes, lowest offset first, as a word (little-endian, 20_memory.md R46). -/
def wordOfBytes (b0 b1 b2 b3 : Byte) : Word := b3 ++ b2 ++ b1 ++ b0

/-- The four bytes of a word, lowest offset first (20_memory.md R46). -/
def bytesOfWord (w : Word) : List Byte :=
  [w.extractLsb' 0 8, w.extractLsb' 8 8, w.extractLsb' 16 8, w.extractLsb' 24 8]

/-- The command at the front of a list of bytes, and the bytes after it. Every command is exactly one word (R66). -/
def decodeBytes (bs : List Byte) : Except DecodeError (Instr × List Byte) :=
  match bs with
  | b0 :: b1 :: b2 :: b3 :: rest =>
    match decode (wordOfBytes b0 b1 b2 b3) with
    | .ok i => .ok (i, rest)
    | .error e => .error e
  | _ => .error .truncated

/-- The `PROBE` word of a kind, a mode number and a block: `0x00000003 | KIND<<4 | MODE<<8 | BLK<<12` (R63). -/
def probeWord (kind mode blk : Nat) : Word :=
  BitVec.ofNat 32 (3 + kind * 2 ^ 4 + mode * 2 ^ 8 + blk * 2 ^ 12)

/-- The command word of a command (R62, R63). -/
def encode (i : Instr) : Word :=
  match i with
  | .nop => 0x00000000#32
  | .frameInit => 0x00000001#32
  | .predictMb => 0x00000002#32
  | .probeI4V blk => probeWord 0 0 blk
  | .probeI4H blk => probeWord 0 1 blk
  | .probeI4Dc blk => probeWord 0 2 blk
  | .probeI4Ddl blk => probeWord 0 3 blk
  | .probeI4Ddr blk => probeWord 0 4 blk
  | .probeI4Vr blk => probeWord 0 5 blk
  | .probeI4Hd blk => probeWord 0 6 blk
  | .probeI4Vl blk => probeWord 0 7 blk
  | .probeI4Hu blk => probeWord 0 8 blk
  | .probeI16V => probeWord 1 0 0
  | .probeI16H => probeWord 1 1 0
  | .probeI16Dc => probeWord 1 2 0
  | .probeI16Plane => probeWord 1 3 0
  | .probeCDc => probeWord 2 0 0
  | .probeCH => probeWord 2 1 0
  | .probeCV => probeWord 2 2 0
  | .probeCPlane => probeWord 2 3 0

/-- The bytes of a command, lowest offset first. -/
def encodeBytes (i : Instr) : List Byte := bytesOfWord (encode i)

/-- The command word of a table word: its `nbits` low bits, the bits above them 0. -/
def tableWord (nbits w : Nat) : Word := BitVec.ofNat 32 (w % 2 ^ nbits)

/-- The command the decoder reads from a word of spec/opcode_table.json. -/
def decodeTableWord (nbits w : Nat) : Option Instr :=
  match decodeBytes (bytesOfWord (tableWord nbits w)) with
  | .ok (i, _) => some i
  | .error _ => none

end Sys2Proof
end

