-- ==== Sys2Proof/Config.lean ====
section
/-! DEFINITION. What one implementation fixes: the parameters of 00_scope.md R5, the constant registers, and the free values
the spec leaves open. -/

namespace Sys2Proof.Config

/-- `MAX_W`, the largest padded frame width in samples (R5). DESIGN CHOICE: the default of a named parameter (log 10). -/
abbrev maxW : Nat := 1920

/-- `MAX_H`, the largest padded frame height in samples (R5). DESIGN CHOICE: the default of a named parameter (log 10). -/
abbrev maxH : Nat := 1088

/-- `THR_LUMA`, the PCM threshold for luma (R5, R34, R107). -/
abbrev thrLuma : Nat := 2000

/-- `THR_CHROMA`, the PCM threshold for chroma (R5, R34, R107). -/
abbrev thrChroma : Nat := 1000

/-- `DEFAULT_SAMPLE`, the value of an unavailable border sample (R5, R77 to R79). -/
def defaultSample : Int := 128

/-- The constant of the `ID` register (R16). -/
def idValue : Word := 0x49504501#32

/-- What a byte of memory that no cell lists reads as. DESIGN CHOICE: the spec leaves the memories' contents after reset
unspecified (R138), and `State.reset` takes this byte for all of them (log 1, unsafe). -/
def unlistedByte : Byte := 0#8

/-- The data word of a read whose value the spec leaves unspecified, one for each draw: a read of a result register or of a
window while `BUSY = 1` (R50), and the data that comes with a bus error (R48). Free: nothing can evaluate it (log 5). -/
opaque freeData : Nat → Word

end Sys2Proof.Config
end

