-- ==== Sys2Proof/Machine/State.lean ====
section
/-! DEFINITION. The state of the engine (10_state.md), as plain data, the events that reach it, and the reset state
(70_reset_and_hazards.md R138). -/

namespace Sys2Proof.Machine

/-- The byte memories of the aperture (20_memory.md R52), all of them in one sparse list keyed by aperture offset: SRC, WORK,
PRED, PROBE_PRED, the mode store and the three DNT planes. A byte no cell lists reads as `Config.unlistedByte`. -/
abbrev Memory := List Host.Cell

/-- The width of a bus access (20_memory.md R47). -/
inductive Width where
  | w8
  | w16
  | w32
  deriving DecidableEq, Repr

/-- What can happen next. The host's accesses are those of 00_scope.md R10; an offset has the 23 bits of the 8 MiB aperture
(R45). `engine` is the engine's own turn: the command in flight executes and completes (R115). `reset` is the reset event
(R137) with the contents the memories happen to have after it, any at all (R138, U1, log 2). -/
inductive Event where
  | read (n : Width) (off : BitVec 23)
  | write (n : Width) (off : BitVec 23) (v : Word)
  | engine
  | reset (contents : List Host.Cell)
  deriving DecidableEq, Repr

/-- The engine's answer to a bus access: data or acknowledgement, or the error response of R48. -/
inductive Response where
  | readOk (v : Word)
  | writeOk
  | readError (v : Word)
  | writeError
  deriving DecidableEq, Repr

/-- What is latched when a command is issued (R43, R114): the command word, `MB_IDX[15:0]` and `CTRL.BSRC`. -/
structure Latch where
  word : Word
  idx : Half
  bsrc : Bool
  deriving DecidableEq, Repr

/-- The stored fields of `STATUS` (R20 to R23). `BUSY` is "a command is in flight" (R19) and `FRAME_DONE` is computed (R23). -/
structure Status where
  done : Bool
  err : Bool
  ovr : Bool
  errcode : BitVec 4
  frameValid : Bool
  lastop : BitVec 4
  deriving DecidableEq, Repr

/-- The state of the machine: the registers of 10_state.md R15, the memories of R37 to R42, the hidden state of R43, and the
model's own fields `script` (log 3), `bus` (log 6) and `draws` (log 5). -/
structure State where
  /-- `CTRL.IRQ_EN` (R17). -/
  irqEn : Bool
  /-- `CTRL.BSRC` (R17). -/
  bsrc : Bool
  /-- The stored fields of `STATUS` (R20 to R23). -/
  status : Status
  /-- `FRAME_W[15:0]` (R24). -/
  frameW : Half
  /-- `FRAME_H[15:0]` (R24). -/
  frameH : Half
  /-- `MB_COLS[15:0]` (R25). -/
  mbCols : Half
  /-- `MB_ROWS[15:0]` (R25). -/
  mbRows : Half
  /-- `MB_COUNT[15:0]` (R25). -/
  mbCount : Half
  /-- `NEXT_MB[15:0]` (R26). -/
  nextMb : Half
  /-- `MB_IDX[15:0]` (R27). -/
  mbIdx : Half
  /-- `AVAIL` (R28). -/
  avail : Word
  /-- `RESULT` (R29). -/
  result : Word
  /-- `I4BEST_LO` (R30). -/
  i4bestLo : Word
  /-- `I4BEST_HI` (R30). -/
  i4bestHi : Word
  /-- `COST_I16` (R31). -/
  costI16 : Word
  /-- `COST_I4` (R31). -/
  costI4 : Word
  /-- `COST_LUMA` (R31). -/
  costLuma : Word
  /-- `COST_CHROMA` (R32). -/
  costChroma : Word
  /-- `COST_CB` (R32). -/
  costCb : Word
  /-- `COST_CR` (R32). -/
  costCr : Word
  /-- `PROBE_SAD` (R33). -/
  probeSad : Word
  /-- `PROBE_STAT` (R33). -/
  probeStat : Word
  /-- `I4COST[0..15]` (R35). -/
  i4cost : Vector Word 16
  /-- The byte memories of R52. -/
  mem : Memory
  /-- The command in flight, if there is one (R43). -/
  inflight : Option Latch
  /-- The coming events, oldest first. -/
  script : List Event
  /-- The answer to the last bus access. -/
  bus : Option Response
  /-- How many free read values have been drawn. -/
  draws : Nat
  deriving DecidableEq, Repr

/-- No step of this engine ends in a fault: a command error is recorded in `STATUS` and a bus error is the answer to one
access, and the engine goes on after both (60_exceptions.md R124, R127, R136). So there is no constructor (log 17). -/
inductive Fault where
  deriving DecidableEq, Repr

/-- Why a step has no meaning. -/
inductive Refusal where
  /-- Raised by `exec` alone, for a command whose meaning is not written; safe, and no command of this model raises it. -/
  | notModelled (mnemonic : String)
  deriving DecidableEq, Repr

/-- `STATUS` after reset (R138). -/
def Status.reset : Status :=
  { done := false, err := false, ovr := false, errcode := 0#4, frameValid := false, lastop := 0#4 }

/-- The machine right after reset (R138). The memories list nothing (log 1), no event is to come (log 3). -/
def State.reset : State where
  irqEn := false
  bsrc := false
  status := Status.reset
  frameW := 0#16
  frameH := 0#16
  mbCols := 0#16
  mbRows := 0#16
  mbCount := 0#16
  nextMb := 0#16
  mbIdx := 0#16
  avail := 0#32
  result := 0#32
  i4bestLo := 0#32
  i4bestHi := 0#32
  costI16 := 0#32
  costI4 := 0#32
  costLuma := 0#32
  costChroma := 0#32
  costCb := 0#32
  costCr := 0#32
  probeSad := 0#32
  probeStat := 0#32
  i4cost := #v[0#32, 0#32, 0#32, 0#32, 0#32, 0#32, 0#32, 0#32, 0#32, 0#32, 0#32, 0#32, 0#32, 0#32, 0#32, 0#32]
  mem := []
  inflight := none
  script := []
  bus := none
  draws := 0

end Sys2Proof.Machine
end

