-- ==== Sys2Proof/Machine/Map.lean ====
section
/-! DEFINITION. The aperture map (20_memory.md R52 to R54): the regions, the listed registers (10_state.md R15) and the offsets
of samples, values and records. -/

namespace Sys2Proof.Machine

/-- Offset of `SRC_Y[0, 0]` (R52). -/
abbrev srcYBase : Nat := 0x001000
/-- Offset of `SRC_Cb[0, 0]` (R52). -/
abbrev srcCbBase : Nat := 0x001100
/-- Offset of `SRC_Cr[0, 0]` (R52). -/
abbrev srcCrBase : Nat := 0x001140
/-- Offset of the WORK window: Y, Cb and Cr follow each other, two bytes a value (R52). -/
abbrev workBase : Nat := 0x002000
/-- Offset of the PRED window: Y, Cb and Cr follow each other (R52). -/
abbrev predBase : Nat := 0x003000
/-- Offset of the PROBE_PRED window (R52). -/
abbrev probeBase : Nat := 0x005000
/-- Offset of record 0 of the mode store (R52). -/
abbrev modeBase : Nat := 0x100000
/-- Offset of the `DNT_Y` plane (R52, R53). -/
abbrev dntYBase : Nat := 0x200000
/-- Offset of the `DNT_Cb` plane (R52, R53). -/
abbrev dntCbBase : Nat := 0x400000
/-- Offset of the `DNT_Cr` plane (R52, R53). -/
abbrev dntCrBase : Nat := 0x480000

/-- Offset of a sample of a plane with a given row stride (R52, R53). -/
def planeAt (base stride x y : Nat) : Nat := base + y * stride + x

/-- The regions of the aperture that take different accesses (R47). -/
inductive Region where
  | registers
  | src
  | work
  | pred
  | probePred
  | modeStore
  | dnt
  deriving DecidableEq, Repr

/-- `off` is one of the `len` offsets from `base` on. -/
def inRange (base len off : Nat) : Bool := decide (base ≤ off) && decide (off < base + len)

/-- The region an offset lies in, `none` for an unmapped one (R52). -/
def regionOf (off : Nat) : Option Region :=
  if inRange 0x000000 0x1000 off then some .registers
  else if inRange srcYBase 0x180 off then some .src
  else if inRange workBase 0x300 off then some .work
  else if inRange predBase 0x180 off then some .pred
  else if inRange probeBase 0x180 off then some .probePred
  else if inRange modeBase 0x1FE00 off then some .modeStore
  else if inRange dntYBase 0x1FE000 off then some .dnt
  else if inRange dntCbBase 0x7F800 off then some .dnt
  else if inRange dntCrBase 0x7F800 off then some .dnt
  else none

/-- The offset is a byte of one of the memories, not of the registers and not unmapped (R52). -/
def isMemory (off : Nat) : Bool :=
  match regionOf off with
  | none => false
  | some .registers => false
  | some _ => true

/-- The registers of R15. -/
inductive Reg where
  | id
  | ctrl
  | cmd
  | status
  | frameW
  | frameH
  | mbCols
  | mbRows
  | mbCount
  | nextMb
  | mbIdx
  | avail
  | result
  | i4bestLo
  | i4bestHi
  | costI16
  | costI4
  | costLuma
  | costChroma
  | costCb
  | costCr
  | probeSad
  | probeStat
  | thrLuma
  | thrChroma
  | i4cost (k : Fin 16)
  deriving DecidableEq, Repr

/-- The register at an offset, `none` for an offset R15 does not list. -/
def regAt (off : Nat) : Option Reg :=
  match off with
  | 0x000 => some .id
  | 0x004 => some .ctrl
  | 0x008 => some .cmd
  | 0x00C => some .status
  | 0x010 => some .frameW
  | 0x014 => some .frameH
  | 0x018 => some .mbCols
  | 0x01C => some .mbRows
  | 0x020 => some .mbCount
  | 0x024 => some .nextMb
  | 0x028 => some .mbIdx
  | 0x02C => some .avail
  | 0x030 => some .result
  | 0x034 => some .i4bestLo
  | 0x038 => some .i4bestHi
  | 0x03C => some .costI16
  | 0x040 => some .costI4
  | 0x044 => some .costLuma
  | 0x048 => some .costChroma
  | 0x04C => some .costCb
  | 0x050 => some .costCr
  | 0x054 => some .probeSad
  | 0x058 => some .probeStat
  | 0x05C => some .thrLuma
  | 0x060 => some .thrChroma
  | _ => if inRange 0x080 0x40 off && decide (off % 4 = 0) then some (.i4cost (Fin.ofNat 16 ((off - 0x080) / 4))) else none

/-- The registers a read returns exactly while `BUSY = 1` (R50). -/
def Reg.busyReadable : Reg → Bool
  | .id | .ctrl | .cmd | .status | .frameW | .frameH | .mbCols | .mbRows | .mbCount | .nextMb | .mbIdx => true
  | .thrLuma | .thrChroma => true
  | .avail | .result | .i4bestLo | .i4bestHi | .costI16 | .costI4 | .costLuma | .costChroma | .costCb | .costCr => false
  | .probeSad | .probeStat | .i4cost _ => false

/-- How many bytes an access moves (R47). -/
def Width.bytes : Width → Nat
  | .w8 => 1
  | .w16 => 2
  | .w32 => 4

/-- The access is answered without a bus error: naturally aligned, at a mapped offset, in a width and a direction its region
allows (R47, R49, R127). -/
def accessOk (isWrite : Bool) (n : Width) (off : Nat) : Bool :=
  decide (off % n.bytes = 0) &&
  match regionOf off with
  | none => false
  | some .registers => decide (n = .w32) && (regAt off).isSome
  | some .src => true
  | some .dnt => true
  | some .work => !isWrite
  | some .pred => !isWrite
  | some .probePred => !isWrite
  | some .modeStore => !isWrite && decide (n = .w32)

end Sys2Proof.Machine
end

