-- ==== Sys2Proof/Machine/Ops.lean ====
section
/-! DEFINITION. The shared operations: the memory's bytes, issuing a command (45_commands.md R114), its completion (R115), the
one error entry (60_exceptions.md R129) and its clearing (R130), the command checks (R116), and the reset event
(70_reset_and_hazards.md R137). -/

namespace Sys2Proof.Machine

/-! ### Memory -/

/-- The canonical form: offsets strictly rising, and no cell that holds what an unlisted byte reads as. -/
abbrev Memory.wf (m : Memory) : Prop :=
  m.Pairwise (fun c d => c.1 < d.1) ∧ ∀ c ∈ m, c.2 ≠ Config.unlistedByte

/-- The byte at an offset. -/
def Memory.readByte : Memory → Nat → Byte
  | [], _ => Config.unlistedByte
  | c :: m, a => if c.1 = a then c.2 else Memory.readByte m a

/-- A cell before the rest of a memory, unless it holds what an unlisted byte reads as. -/
def Memory.consCell (a : Nat) (b : Byte) (m : Memory) : Memory :=
  if b = Config.unlistedByte then m else (a, b) :: m

/-- The byte `b` put in at offset `a`, and `k` applied to the cells above `a`. -/
def Memory.putThen (a : Nat) (b : Byte) (k : Memory → Memory) : Memory → Memory
  | [] => Memory.consCell a b (k [])
  | c :: m =>
    if c.1 < a then c :: Memory.putThen a b k m
    else if c.1 = a then Memory.consCell a b (k m)
    else Memory.consCell a b (k (c :: m))

/-- The bytes `bs` stored at the offsets from `a` on, in one pass over the memory. Every store of the model is this one. -/
def Memory.writeRun (a : Nat) : List Byte → Memory → Memory
  | [], m => m
  | b :: bs, m => Memory.putThen a b (Memory.writeRun (a + 1) bs) m

/-- The `len` bytes from offset `a` on. -/
def Memory.readRun (m : Memory) (a len : Nat) : List Byte := (List.range len).map (fun i => m.readByte (a + i))

/-- The rows of an `n` by `n` block, given in raster order, stored to a plane with a row stride (20_memory.md R53). -/
def Memory.writeRows (a stride n : Nat) (bs : List Byte) (m : Memory) : Memory :=
  (List.range n).foldl (fun m y => m.writeRun (a + y * stride) ((bs.drop (n * y)).take n)) m

/-- Bytes as an unsigned number, the first one least significant (20_memory.md R46). -/
def leValue : List Byte → Nat
  | [] => 0
  | b :: bs => b.toNat + 256 * leValue bs

/-- The low `len` bytes of a number, the least significant first (20_memory.md R46). -/
def leBytes : Nat → Nat → List Byte
  | 0, _ => []
  | len + 1, v => BitVec.ofNat 8 v :: leBytes len (v / 256)

/-- The state with other memories. -/
def State.setMem (s : State) (m : Memory) : State := { s with mem := m }

/-! ### Issue and completion -/

/-- The command errors and their codes (60_exceptions.md R124). -/
inductive CmdError where
  | cmd
  | dim
  | range
  | noFrame
  | idx
  | order
  deriving DecidableEq, Repr

/-- `ERRCODE` of a command error (R124). -/
def CmdError.code : CmdError → BitVec 4
  | .cmd => 1#4
  | .dim => 2#4
  | .range => 3#4
  | .noFrame => 4#4
  | .idx => 5#4
  | .order => 6#4

/-- `STATUS.BUSY`: a command is in flight (10_state.md R19, R43). -/
def State.busy (s : State) : Bool := s.inflight.isSome

/-- What a command issued now latches (R114). -/
def State.latchNow (w : Word) (s : State) : Latch := { word := w, idx := s.mbIdx, bsrc := s.bsrc }

/-- A command is issued: the word and its inputs are latched, `DONE`, `ERR` and `ERRCODE` are cleared, `LASTOP` is set and `BUSY`
reads 1; `OVR` is not changed (R114). -/
def State.issue (w : Word) (s : State) : State :=
  { s with
    status := { s.status with done := false, err := false, errcode := 0#4, lastop := BitVec.ofNat 4 (fieldOp w) }
    inflight := some (s.latchNow w) }

/-- Completion without error: `DONE <- 1`, `BUSY <- 0` (R115). -/
def State.succeed (s : State) : State :=
  { s with status := { s.status with done := true }, inflight := none }

/-- The error entry: `ERR <- 1`, `ERRCODE <- code`, `BUSY <- 0`, and nothing else (R115, R129). -/
def State.raiseCmdError (e : CmdError) (s : State) : State :=
  { s with status := { s.status with err := true, errcode := e.code }, inflight := none }

/-- The clearing of `DONE`, of `ERR` with `ERRCODE`, and of `OVR` by a write of 1 to bits 1, 2 and 3 of `STATUS`: the only way
back from the error entry beside the next issue (R130; 10_state.md R20 to R22). -/
def State.clearStatus (v : Word) (s : State) : State :=
  { s with
    status :=
      { s.status with
        done := s.status.done && !v.getLsbD 1
        err := s.status.err && !v.getLsbD 2
        errcode := if v.getLsbD 2 then 0#4 else s.status.errcode
        ovr := s.status.ovr && !v.getLsbD 3 } }

/-- Completion of a command with its result (R115). -/
def State.complete (s : State) : Except CmdError State → State
  | .ok t => t.succeed
  | .error e => s.raiseCmdError e

/-- The state in which a command of word `w` executes: a command in flight stands as it is, and otherwise the word is issued
first (R115: issue, execution and completion may be one transition; log 8). -/
def State.engaged (w : Word) (s : State) : State := if s.busy then s else s.issue w

/-- What the command in flight has latched (R43), or would latch. -/
def State.latched (w : Word) (s : State) : Latch := s.inflight.getD (s.latchNow w)

/-- A command of word `w` from issue to completion, with `body` its execution (R114 to R116). -/
def State.runCommand (w : Word) (body : Latch → State → Except CmdError State) (s : State) : State :=
  (s.engaged w).complete (body (s.latched w) (s.engaged w))

/-- A word in flight that is no command ends with `ERR_CMD` (R116; 30_encoding.md R64). -/
def State.rejectWord (s : State) : State := s.raiseCmdError .cmd

/-- `CheckMB`: the checks of `PREDICT_MB` and `PROBE`, in their order (R116, R126). -/
def State.checkMb (l : Latch) (s : State) : Except CmdError Nat :=
  if s.status.frameValid = false then .error .noFrame
  else if s.mbCount.toNat ≤ l.idx.toNat then .error .idx
  else if l.idx ≠ s.nextMb then .error .order
  else .ok l.idx.toNat

/-! ### Reset -/

/-- The memories after a reset event: `contents`, any at all, as far as they lie in memory (R138, U1; log 2). -/
def memoryOf (contents : List Host.Cell) : Memory :=
  contents.foldl (fun m c => if isMemory c.1 then m.writeRun c.1 [c.2] else m) []

/-- The reset event: every register at its reset value, no command in flight, the memories arbitrary (R137, R138). The command
in flight is abandoned with none of its effects (log 9). -/
def State.resetEvent (contents : List Host.Cell) (s : State) : State :=
  { State.reset with mem := memoryOf contents, script := s.script, draws := s.draws }

/-! ### Free read values -/

/-- The next free read value, cut to the width of the access (20_memory.md R48, R50; log 5). -/
def State.freeRead (n : Width) (s : State) : Word :=
  BitVec.ofNat 32 ((Config.freeData s.draws).toNat % 256 ^ n.bytes)

end Sys2Proof.Machine
end

