-- ==== Sys2Proof/Machine/Operands.lean ====
section
/-! DEFINITION. The operands of a command (40_neighbours.md): macroblock geometry and availability, the order and the borders of
the 4x4 blocks, the sources of samples, and the border predictors. Sample arithmetic is on mathematical integers (00_scope.md
R8); a block is the list of its bytes in raster order (R9). -/

namespace Sys2Proof.Machine

/-! ### Geometry -/

/-- `col(n)` in a frame of `c` columns (R69). -/
abbrev mbCol (c n : Nat) : Nat := n % c

/-- `row(n)` in a frame of `c` columns (R69). -/
abbrev mbRow (c n : Nat) : Nat := n / c

/-- The four availability booleans a Predictor carries (00_scope.md R12). -/
structure Avail where
  up : Bool
  left : Bool
  upright : Bool
  upleft : Bool
  deriving DecidableEq, Repr

/-- The availability of a macroblock's five neighbours (R70). -/
structure MbAvail extends Avail where
  right : Bool
  deriving DecidableEq, Repr

/-- `MbAvail(n)` in a frame of `c` columns (R70). -/
def mbAvail (c n : Nat) : MbAvail where
  up := decide (0 < mbRow c n)
  left := decide (0 < mbCol c n)
  upright := decide (0 < mbRow c n) && decide (mbCol c n + 1 < c)
  upleft := decide (0 < mbRow c n) && decide (0 < mbCol c n)
  right := decide (mbCol c n + 1 < c)

/-- The column `X` of 4x4 block `k` (R73). -/
def blkX (k : Nat) : Nat := 2 * (k / 4 % 2) + k % 2

/-- The row `Y` of 4x4 block `k` (R73). -/
def blkY (k : Nat) : Nat := 2 * (k / 8) + k / 2 % 2

/-- The index of the 4x4 block at column `X`, row `Y`: the inverse of `blkX` and `blkY` (R73). -/
def blkIdx (X Y : Nat) : Nat := 8 * (Y / 2) + 4 * (X / 2) + 2 * (Y % 2) + X % 2

/-- The border availability of 4x4 block `k` (R74). -/
def blkAvail (av : MbAvail) (k : Nat) : Avail where
  up := decide (0 < blkY k) || av.up
  left := decide (0 < blkX k) || av.left
  upleft :=
    if 0 < blkX k ∧ 0 < blkY k then true
    else if blkX k = 0 ∧ 0 < blkY k then av.left
    else if 0 < blkX k ∧ blkY k = 0 then av.up
    else av.upleft
  upright :=
    if blkY k = 0 then (if blkX k < 3 then av.up else av.upright)
    else if blkX k = 3 then false
    else decide (blkIdx (blkX k + 1) (blkY k - 1) < k)

/-! ### Samples -/

/-- A byte as an integer sample. -/
def sampleOf (b : Byte) : Int := b.toNat

/-- A sample value narrowed to a byte where it is stored (00_scope.md R7, R8). -/
def byteOf (v : Int) : Byte := BitVec.ofInt 8 v

/-- `v >> k`, the arithmetic right shift: division by a power of two, rounded down (00_scope.md R8). -/
def shr (v : Int) (k : Nat) : Int := v / 2 ^ k

/-- The `n` by `n` block whose sample at column `x`, row `y` is `f x y`, in raster order (00_scope.md R9). -/
def raster (n : Nat) (f : Int → Int → Int) : List Byte :=
  (List.range (n * n)).map (fun i => byteOf (f (i % n : Nat) (i / n : Nat)))

/-- The sample at column `x`, row `y` of an `n` by `n` block in raster order. -/
def blockAt (n : Nat) (b : List Byte) (x y : Nat) : Byte := b.getD (n * y + x) 0#8

/-- `SRC_Y` in raster order (10_state.md R37). -/
def State.srcY (s : State) : List Byte := s.mem.readRun srcYBase 256
/-- `SRC_Cb` in raster order (10_state.md R37). -/
def State.srcCb (s : State) : List Byte := s.mem.readRun srcCbBase 64
/-- `SRC_Cr` in raster order (10_state.md R37). -/
def State.srcCr (s : State) : List Byte := s.mem.readRun srcCrBase 64

/-- Block `k` of a 16x16 raster block, in 4x4 raster order (R73). -/
def subBlock (b : List Byte) (k : Nat) : List Byte :=
  (List.range 16).map (fun i => blockAt 16 b (4 * blkX k + i % 4) (4 * blkY k + i / 4))

/-- The luma stride of the current frame, `16 * MB_COLS` (20_memory.md R53). -/
def State.strideY (s : State) : Nat := 16 * s.mbCols.toNat
/-- The chroma stride of the current frame, `8 * MB_COLS` (20_memory.md R53). -/
def State.strideC (s : State) : Nat := 8 * s.mbCols.toNat

/-- `DNT_Y(X, Y)` (20_memory.md R53). -/
def State.dntY (s : State) (X Y : Nat) : Int := sampleOf (s.mem.readByte (planeAt dntYBase s.strideY X Y))

/-- A sample of the chroma plane of the DNT at `base` (20_memory.md R53). -/
def State.dntC (s : State) (base X Y : Nat) : Int := sampleOf (s.mem.readByte (planeAt base s.strideC X Y))

/-- The luma origin of macroblock `n` (R69). -/
def State.lumaX (s : State) (n : Nat) : Nat := 16 * mbCol s.mbCols.toNat n
/-- The luma origin of macroblock `n` (R69). -/
def State.lumaY (s : State) (n : Nat) : Nat := 16 * mbRow s.mbCols.toNat n
/-- The chroma origin of macroblock `n` (R69). -/
def State.chromaX (s : State) (n : Nat) : Nat := 8 * mbCol s.mbCols.toNat n
/-- The chroma origin of macroblock `n` (R69). -/
def State.chromaY (s : State) (n : Nat) : Nat := 8 * mbRow s.mbCols.toNat n

/-- `INTRA_Y[x, y]`, read from the decoded samples of the blocks visited so far, block `j` the `j`-th of the list (R76). -/
def intraAt (intra : List (List Byte)) (x y : Nat) : Int :=
  sampleOf (blockAt 4 (intra.getD (blkIdx (x / 4) (y / 4)) []) (x % 4) (y % 4))

/-- `LumaAt(X, Y)` while macroblock `n` is predicted: `INTRA_Y` inside the macroblock, the DNT outside (R75). -/
def State.lumaAt (s : State) (n : Nat) (intra : List (List Byte)) (X Y : Nat) : Int :=
  if s.lumaX n ≤ X ∧ X < s.lumaX n + 16 ∧ s.lumaY n ≤ Y ∧ Y < s.lumaY n + 16
  then intraAt intra (X - s.lumaX n) (Y - s.lumaY n)
  else s.dntY X Y

/-! ### Predictors -/

/-- A border vector with its availability booleans (00_scope.md R12): `p[-1,-1]`, `p[0..,-1]` and `p[-1,0..]`. -/
structure Predictor where
  corner : Int
  up : List Int
  left : List Int
  av : Avail
  deriving DecidableEq, Repr

/-- `p[i, -1]`; the index -1 is the corner (41_luma4x4.md R85). -/
def Predictor.top (p : Predictor) (i : Int) : Int := if i < 0 then p.corner else p.up.getD i.toNat 0

/-- `p[-1, j]`; the index -1 is the corner (41_luma4x4.md R85). -/
def Predictor.side (p : Predictor) (j : Int) : Int := if j < 0 then p.corner else p.left.getD j.toNat 0

/-- The 4x4 Predictor of block `k` of macroblock `n`, 13 samples (R77). -/
def State.predictor4 (s : State) (n : Nat) (intra : List (List Byte)) (k : Nat) : Predictor :=
  let av := blkAvail (mbAvail s.mbCols.toNat n) k
  let bx := s.lumaX n + 4 * blkX k
  let yb := s.lumaY n + 4 * blkY k
  let above (i : Nat) : Int := if av.up then s.lumaAt n intra (bx + i) (yb - 1) else Config.defaultSample
  let aboveRight (i : Nat) : Int := if av.upright then s.lumaAt n intra (bx + i) (yb - 1) else above 3
  { corner := if av.upleft then s.lumaAt n intra (bx - 1) (yb - 1) else Config.defaultSample
    up := [above 0, above 1, above 2, above 3, aboveRight 4, aboveRight 5, aboveRight 6, aboveRight 7]
    left := (List.range 4).map (fun j => if av.left then s.lumaAt n intra (bx - 1) (yb + j) else Config.defaultSample)
    av := av }

/-- The 16x16 Predictor of macroblock `n`, 33 samples (R78). -/
def State.predictor16 (s : State) (n : Nat) : Predictor :=
  let av := mbAvail s.mbCols.toNat n
  let mx := s.lumaX n
  let my := s.lumaY n
  { corner := if av.upleft then s.dntY (mx - 1) (my - 1) else Config.defaultSample
    up := (List.range 16).map (fun x => if av.up then s.dntY (mx + x) (my - 1) else Config.defaultSample)
    left := (List.range 16).map (fun y => if av.left then s.dntY (mx - 1) (my + y) else Config.defaultSample)
    av := av.toAvail }

/-- The 8x8 Predictor of macroblock `n` in the chroma plane at `base`, 17 samples (R79). -/
def State.predictorC (s : State) (base n : Nat) : Predictor :=
  let av := mbAvail s.mbCols.toNat n
  let cx := s.chromaX n
  let cy := s.chromaY n
  { corner := if av.upleft then s.dntC base (cx - 1) (cy - 1) else Config.defaultSample
    up := (List.range 8).map (fun x => if av.up then s.dntC base (cx + x) (cy - 1) else Config.defaultSample)
    left := (List.range 8).map (fun y => if av.left then s.dntC base (cx - 1) (cy + y) else Config.defaultSample)
    av := av.toAvail }

end Sys2Proof.Machine
end

