-- ==== Sys2Proof/Machine/Flags.lean ====
section
/-! DEFINITION. The status and result words (10_state.md R19 to R33, 44_selection.md R111, R112) and the interrupt output
(60_exceptions.md R132). -/

namespace Sys2Proof.Machine

/-- A flag at bit `k` of a word. -/
def bitAt (b : Bool) (k : Nat) : Nat := if b then 2 ^ k else 0

/-- `STATUS.FRAME_DONE` (R23). -/
def State.frameDone (s : State) : Bool := s.status.frameValid && decide (s.nextMb = s.mbCount)

/-- `STATUS` as it reads (R19 to R23). -/
def State.statusWord (s : State) : Word :=
  BitVec.ofNat 32
    (bitAt s.busy 0 + bitAt s.status.done 1 + bitAt s.status.err 2 + bitAt s.status.ovr 3 + s.status.errcode.toNat * 2 ^ 4 +
      bitAt s.status.frameValid 8 + bitAt s.frameDone 9 + s.status.lastop.toNat * 2 ^ 12)

/-- `CTRL` as it reads (R17). -/
def State.ctrlWord (s : State) : Word := BitVec.ofNat 32 (bitAt s.irqEn 0 + bitAt s.bsrc 1)

/-- `AVAIL` (R28). -/
def availWord (av : MbAvail) : Word :=
  BitVec.ofNat 32 (bitAt av.up 0 + bitAt av.left 1 + bitAt av.upright 2 + bitAt av.upleft 3 + bitAt av.right 4)

/-- `RESULT` (R29, R112). -/
def resultWord (isI16 pcm : Bool) (i16best cmode : Nat) : Word :=
  BitVec.ofNat 32 (1 + bitAt isI16 1 + bitAt pcm 2 + i16best * 2 ^ 4 + cmode * 2 ^ 8)

/-- `PROBE_STAT` (R33, 45_commands.md R120). -/
def probeStatWord (legal : Bool) (kind mode blk : Nat) : Word :=
  BitVec.ofNat 32 (1 + bitAt legal 1 + kind * 2 ^ 4 + mode * 2 ^ 8 + blk * 2 ^ 12)

/-- Eight mode numbers as the nibbles of a word, the first one lowest (R30, R111). -/
def nibbles : List Nat → Nat
  | [] => 0
  | m :: ms => m % 16 + 16 * nibbles ms

/-- The value of a mode field that holds no mode (R42, 30_encoding.md R60). -/
def noMode : Nat := 0xF

/-- Word 0 of a mode record (R42, R111). -/
def recordWord0 (isI16 pcm : Bool) (m16 cmode : Nat) : Nat :=
  1 + bitAt isI16 1 + bitAt pcm 2 + (if isI16 then m16 else noMode) * 2 ^ 4 + cmode * 2 ^ 8

/-- Words 1 and 2 of a mode record, from eight 4x4 modes (R42, R111). -/
def recordModes (isI16 : Bool) (modes : List Nat) : Nat := nibbles (modes.map (fun m => if isI16 then noMode else m))

/-- The interrupt output (R132). -/
def State.irq (s : State) : Bool := s.irqEn && (s.status.done || s.status.err)

end Sys2Proof.Machine
end

