-- ==== Sys2Proof/Machine/Selection.lean ====
section
/-! DEFINITION. Cost and choice (44_selection.md R104 to R107): the sum of absolute differences, the first minimum, the luma
decision and the PCM test. -/

namespace Sys2Proof.Machine

/-- `SAD` of two blocks of the same size (R104). -/
def sad (a b : List Byte) : Nat := (List.zipWith (fun p q => (sampleOf p - sampleOf q).natAbs) a b).sum

/-- One candidate of a luma search: its mode number, its cost and its prediction in raster order (R105). -/
structure Candidate where
  mode : Nat
  cost : Nat
  pred : List Byte
  deriving DecidableEq, Repr

/-- The better of two candidates, the earlier one unless the later is strictly cheaper (R105). -/
def betterOf {α : Type} (cost : α → Nat) (best c : α) : α := if cost c < cost best then c else best

/-- `argmin_first`: the first candidate whose cost is minimal (R105). -/
def argminFirst {α : Type} (cost : α → Nat) : List α → Option α
  | [] => none
  | c :: cs => some (cs.foldl (betterOf cost) c)

/-- `is_i16`: 4x4 wins only when strictly cheaper (R106). -/
def isI16Of (cost4 cost16 : Nat) : Bool := !decide (cost4 < cost16)

/-- `pcm`: a cost exceeds its threshold (R107). -/
def pcmOf (costL costC : Nat) : Bool := decide (Config.thrLuma < costL) || decide (Config.thrChroma < costC)

end Sys2Proof.Machine
end

