-- ==== Sys2Proof/Machine/Luma4x4.lean ====
section
/-! DEFINITION. The nine 4x4 luma modes (41_luma4x4.md R80 to R89), their selection in one block (R90) and the 4x4 pass of a
macroblock (R91). -/

namespace Sys2Proof.Machine

/-- The 4x4 luma modes (30_encoding.md R60). -/
inductive I4Mode where
  | v
  | h
  | dc
  | ddl
  | ddr
  | vr
  | hd
  | vl
  | hu
  deriving DecidableEq, Repr

/-- The mode number (30_encoding.md R60). -/
def I4Mode.num : I4Mode → Nat
  | .v => 0
  | .h => 1
  | .dc => 2
  | .ddl => 3
  | .ddr => 4
  | .vr => 5
  | .hd => 6
  | .vl => 7
  | .hu => 8

/-- The modes in ascending number. -/
def I4Mode.all : List I4Mode := [.v, .h, .dc, .ddl, .ddr, .vr, .hd, .vl, .hu]

/-- The borders a 4x4 mode needs (R80). -/
def I4Mode.legal (m : I4Mode) (av : Avail) : Bool :=
  match m with
  | .v => av.up
  | .ddl => av.up
  | .vl => av.up
  | .h => av.left
  | .hu => av.left
  | .dc => true
  | .ddr => av.up && av.left && av.upleft
  | .vr => av.up && av.left && av.upleft
  | .hd => av.up && av.left && av.upleft

/-- Vertical (R81). -/
def i4V (p : Predictor) (x _y : Int) : Int := p.top x

/-- Horizontal (R82). -/
def i4H (p : Predictor) (_x y : Int) : Int := p.side y

/-- DC (R83): an unavailable side is left out of the sum. -/
def i4Dc (p : Predictor) (_x _y : Int) : Int :=
  let su := p.top 0 + p.top 1 + p.top 2 + p.top 3
  let sl := p.side 0 + p.side 1 + p.side 2 + p.side 3
  if p.av.up && p.av.left then shr (su + sl + 4) 3
  else if p.av.left then shr (sl + 2) 2
  else if p.av.up then shr (su + 2) 2
  else Config.defaultSample

/-- Diagonal_Down_Left (R84). -/
def i4Ddl (p : Predictor) (x y : Int) : Int :=
  if x = 3 ∧ y = 3 then shr (p.top 6 + 3 * p.top 7 + 2) 2
  else shr (p.top (x + y) + 2 * p.top (x + y + 1) + p.top (x + y + 2) + 2) 2

/-- Diagonal_Down_Right (R85). -/
def i4Ddr (p : Predictor) (x y : Int) : Int :=
  if x > y then shr (p.top (x - y - 2) + 2 * p.top (x - y - 1) + p.top (x - y) + 2) 2
  else if x < y then shr (p.side (y - x - 2) + 2 * p.side (y - x - 1) + p.side (y - x) + 2) 2
  else shr (p.top 0 + 2 * p.corner + p.side 0 + 2) 2

/-- Vertical_Right (R86), `zVR = 2x - y`. -/
def i4Vr (p : Predictor) (x y : Int) : Int :=
  let z := 2 * x - y
  if z = 0 ∨ z = 2 ∨ z = 4 ∨ z = 6 then shr (p.top (x - shr y 1 - 1) + p.top (x - shr y 1) + 1) 1
  else if z = 1 ∨ z = 3 ∨ z = 5 then
    shr (p.top (x - shr y 1 - 2) + 2 * p.top (x - shr y 1 - 1) + p.top (x - shr y 1) + 2) 2
  else if z = -1 then shr (p.side 0 + 2 * p.corner + p.top 0 + 2) 2
  else shr (p.side (y - 1) + 2 * p.side (y - 2) + p.side (y - 3) + 2) 2

/-- Horizontal_Down (R87), `zHD = 2y - x`. -/
def i4Hd (p : Predictor) (x y : Int) : Int :=
  let z := 2 * y - x
  if z = 0 ∨ z = 2 ∨ z = 4 ∨ z = 6 then shr (p.side (y - shr x 1 - 1) + p.side (y - shr x 1) + 1) 1
  else if z = 1 ∨ z = 3 ∨ z = 5 then
    shr (p.side (y - shr x 1 - 2) + 2 * p.side (y - shr x 1 - 1) + p.side (y - shr x 1) + 2) 2
  else if z = -1 then shr (p.side 0 + 2 * p.corner + p.top 0 + 2) 2
  else shr (p.top (x - 1) + 2 * p.top (x - 2) + p.top (x - 3) + 2) 2

/-- Vertical_Left (R88). -/
def i4Vl (p : Predictor) (x y : Int) : Int :=
  if y = 0 ∨ y = 2 then shr (p.top (x + shr y 1) + p.top (x + shr y 1 + 1) + 1) 1
  else shr (p.top (x + shr y 1) + 2 * p.top (x + shr y 1 + 1) + p.top (x + shr y 1 + 2) + 2) 2

/-- Horizontal_Up (R89), `zHU = x + 2y`. -/
def i4Hu (p : Predictor) (x y : Int) : Int :=
  let z := x + 2 * y
  if z = 0 ∨ z = 2 ∨ z = 4 then shr (p.side (y + shr x 1) + p.side (y + shr x 1 + 1) + 1) 1
  else if z = 1 ∨ z = 3 then
    shr (p.side (y + shr x 1) + 2 * p.side (y + shr x 1 + 1) + p.side (y + shr x 1 + 2) + 2) 2
  else if z = 5 then shr (p.side 2 + 3 * p.side 3 + 2) 2
  else p.side 3

/-- `pred_m[x, y]` of a 4x4 mode (R81 to R89). -/
def I4Mode.value (m : I4Mode) (p : Predictor) (x y : Int) : Int :=
  match m with
  | .v => i4V p x y
  | .h => i4H p x y
  | .dc => i4Dc p x y
  | .ddl => i4Ddl p x y
  | .ddr => i4Ddr p x y
  | .vr => i4Vr p x y
  | .hd => i4Hd p x y
  | .vl => i4Vl p x y
  | .hu => i4Hu p x y

/-- The prediction of a 4x4 mode, in 4x4 raster order. -/
def I4Mode.block (m : I4Mode) (p : Predictor) : List Byte := raster 4 (m.value p)

/-- The candidates of a block with Predictor `p` and source samples `src`: the legal modes in ascending number (R90). -/
def i4Candidates (p : Predictor) (src : List Byte) : List Candidate :=
  (I4Mode.all.filter (fun m => m.legal p.av)).map
    (fun m => { mode := m.num, cost := sad (m.block p) src, pred := m.block p })

/-- `SelectI4` on a block's Predictor and source samples (R90). DC is always legal, so the default is never taken. -/
def selectI4 (p : Predictor) (src : List Byte) : Candidate :=
  (argminFirst Candidate.cost (i4Candidates p src)).getD { mode := 2, cost := 0, pred := [] }

/-- The decoded samples of a visited block: its source samples under `BSRC = 0`, its chosen prediction under `BSRC = 1`
(40_neighbours.md R76). -/
def decodedBlock (bsrc : Bool) (srcY : List Byte) (j : Nat) (c : Candidate) : List Byte :=
  if bsrc then c.pred else subBlock srcY j

/-- `INTRA_Y` after the blocks whose choices are `cs` have been visited (40_neighbours.md R76). -/
def intraBlocks (bsrc : Bool) (srcY : List Byte) (cs : List Candidate) : List (List Byte) :=
  cs.mapIdx (decodedBlock bsrc srcY)

/-- The choices of blocks 0 to `k - 1` of macroblock `n`, in their order (R91; 45_commands.md R121). -/
def State.i4Chain (s : State) (bsrc : Bool) (n : Nat) : Nat → List Candidate
  | 0 => []
  | k + 1 =>
    let before := s.i4Chain bsrc n k
    before ++ [selectI4 (s.predictor4 n (intraBlocks bsrc s.srcY before) k) (subBlock s.srcY k)]

/-- The 4x4 pass of macroblock `n`: the choices of the sixteen blocks (R91). -/
def State.i4Pass (s : State) (bsrc : Bool) (n : Nat) : List Candidate := s.i4Chain bsrc n 16

/-- `cost4`, the sum of the block costs (R91). -/
def costOf4 (cs : List Candidate) : Nat := (cs.map Candidate.cost).sum

/-- `predY4`, the assembled 16x16 prediction of the chosen 4x4 modes (R91). -/
def assemble4 (cs : List Candidate) : List Byte :=
  (List.range 256).map (fun i =>
    blockAt 4 ((cs.map Candidate.pred).getD (blkIdx (i % 16 / 4) (i / 16 / 4)) []) (i % 16 % 4) (i / 16 % 4))

end Sys2Proof.Machine
end

