-- ==== Sys2Proof/Machine/Luma16x16.lean ====
section
/-! DEFINITION. The four 16x16 luma modes (42_luma16x16.md R92 to R96) and their selection (R97). -/

namespace Sys2Proof.Machine

/-- `Clip1` (00_scope.md R8). -/
def clip1 (v : Int) : Int := min (max v 0) 255

/-- The sum of `f 0` to `f (n - 1)`. -/
def sumTo (n : Nat) (f : Nat → Int) : Int := ((List.range n).map f).sum

/-- The 16x16 luma modes (30_encoding.md R60). -/
inductive I16Mode where
  | v
  | h
  | dc
  | plane
  deriving DecidableEq, Repr

/-- The mode number (30_encoding.md R60). -/
def I16Mode.num : I16Mode → Nat
  | .v => 0
  | .h => 1
  | .dc => 2
  | .plane => 3

/-- The modes in ascending number. -/
def I16Mode.all : List I16Mode := [.v, .h, .dc, .plane]

/-- The borders a 16x16 mode needs (R92). -/
def I16Mode.legal (m : I16Mode) (av : Avail) : Bool :=
  match m with
  | .v => av.up
  | .h => av.left
  | .dc => true
  | .plane => av.up && av.left && av.upleft

/-- Vertical (R93). -/
def i16V (p : Predictor) (x _y : Int) : Int := p.top x

/-- Horizontal (R94). -/
def i16H (p : Predictor) (_x y : Int) : Int := p.side y

/-- DC (R95): an unavailable side is left out of the sum. -/
def i16Dc (p : Predictor) (_x _y : Int) : Int :=
  let su := sumTo 16 (fun x => p.top x)
  let sl := sumTo 16 (fun y => p.side y)
  if p.av.up && p.av.left then shr (su + sl + 16) 5
  else if p.av.left then shr (sl + 8) 4
  else if p.av.up then shr (su + 8) 4
  else Config.defaultSample

/-- `H` of the 16x16 plane (R96). -/
def i16PlaneH (p : Predictor) : Int := sumTo 8 (fun i => (i + 1) * (p.top (8 + i) - p.top (6 - i)))

/-- `V` of the 16x16 plane (R96). -/
def i16PlaneV (p : Predictor) : Int := sumTo 8 (fun j => (j + 1) * (p.side (8 + j) - p.side (6 - j)))

/-- Plane (R96). -/
def i16Plane (p : Predictor) (x y : Int) : Int :=
  let a := 16 * (p.side 15 + p.top 15)
  let b := shr (5 * i16PlaneH p + 32) 6
  let c := shr (5 * i16PlaneV p + 32) 6
  clip1 (shr (a + b * (x - 7) + c * (y - 7) + 16) 5)

/-- `pred_m[x, y]` of a 16x16 mode (R93 to R96). -/
def I16Mode.value (m : I16Mode) (p : Predictor) (x y : Int) : Int :=
  match m with
  | .v => i16V p x y
  | .h => i16H p x y
  | .dc => i16Dc p x y
  | .plane => i16Plane p x y

/-- The prediction of a 16x16 mode, in raster order. -/
def I16Mode.block (m : I16Mode) (p : Predictor) : List Byte := raster 16 (m.value p)

/-- The legal 16x16 candidates in ascending number (R97). -/
def i16Candidates (p : Predictor) (src : List Byte) : List Candidate :=
  (I16Mode.all.filter (fun m => m.legal p.av)).map
    (fun m => { mode := m.num, cost := sad (m.block p) src, pred := m.block p })

/-- `SelectI16` (R97). DC is always legal, so the default is never taken. -/
def selectI16 (p : Predictor) (src : List Byte) : Candidate :=
  (argminFirst Candidate.cost (i16Candidates p src)).getD { mode := 2, cost := 0, pred := [] }

end Sys2Proof.Machine
end

