-- ==== Sys2Proof/Machine/Chroma8x8.lean ====
section
/-! DEFINITION. The four 8x8 chroma modes (43_chroma8x8.md R98 to R102) and the choice of the one mode of both planes (R103). -/

namespace Sys2Proof.Machine

/-- The chroma modes (30_encoding.md R60). -/
inductive CMode where
  | dc
  | h
  | v
  | plane
  deriving DecidableEq, Repr

/-- The mode number (30_encoding.md R60). -/
def CMode.num : CMode → Nat
  | .dc => 0
  | .h => 1
  | .v => 2
  | .plane => 3

/-- The modes in ascending number. -/
def CMode.all : List CMode := [.dc, .h, .v, .plane]

/-- The borders a chroma mode needs (R98). -/
def CMode.legal (m : CMode) (av : Avail) : Bool :=
  match m with
  | .dc => true
  | .h => av.left
  | .v => av.up
  | .plane => av.up && av.left && av.upleft

/-- The sum of the four border samples above a quadrant (R99). -/
def quadUp (p : Predictor) (xo : Int) : Int := p.top xo + p.top (xo + 1) + p.top (xo + 2) + p.top (xo + 3)

/-- The sum of the four border samples left of a quadrant (R99). -/
def quadLeft (p : Predictor) (yo : Int) : Int := p.side yo + p.side (yo + 1) + p.side (yo + 2) + p.side (yo + 3)

/-- DC (R99): quadrants (0,0) and (4,4) take both sides, (4,0) prefers the up border and (0,4) the left one. -/
def cDc (p : Predictor) (x y : Int) : Int :=
  let xo : Int := if x < 4 then 0 else 4
  let yo : Int := if y < 4 then 0 else 4
  let both := shr (quadUp p xo + quadLeft p yo + 4) 3
  let upOnly := shr (quadUp p xo + 2) 2
  let leftOnly := shr (quadLeft p yo + 2) 2
  if xo = yo then
    if p.av.up && p.av.left then both
    else if p.av.left then leftOnly
    else if p.av.up then upOnly
    else Config.defaultSample
  else if xo = 4 then
    if p.av.up then upOnly
    else if p.av.left then leftOnly
    else Config.defaultSample
  else
    if p.av.left then leftOnly
    else if p.av.up then upOnly
    else Config.defaultSample

/-- Horizontal (R100). -/
def cH (p : Predictor) (_x y : Int) : Int := p.side y

/-- Vertical (R101). -/
def cV (p : Predictor) (x _y : Int) : Int := p.top x

/-- `H` of the chroma plane (R102). -/
def cPlaneH (p : Predictor) : Int := sumTo 4 (fun i => (i + 1) * (p.top (4 + i) - p.top (2 - i)))

/-- `V` of the chroma plane (R102). -/
def cPlaneV (p : Predictor) : Int := sumTo 4 (fun j => (j + 1) * (p.side (4 + j) - p.side (2 - j)))

/-- Plane (R102). -/
def cPlane (p : Predictor) (x y : Int) : Int :=
  let a := 16 * (p.side 7 + p.top 7)
  let b := shr (34 * cPlaneH p + 32) 6
  let c := shr (34 * cPlaneV p + 32) 6
  clip1 (shr (a + b * (x - 3) + c * (y - 3) + 16) 5)

/-- `pred_m[x, y]` of a chroma mode (R99 to R102). -/
def CMode.value (m : CMode) (p : Predictor) (x y : Int) : Int :=
  match m with
  | .dc => cDc p x y
  | .h => cH p x y
  | .v => cV p x y
  | .plane => cPlane p x y

/-- The prediction of a chroma mode in one plane, in raster order. -/
def CMode.block (m : CMode) (p : Predictor) : List Byte := raster 8 (m.value p)

/-- One candidate of the chroma search: the mode, its SAD in each plane and its prediction of each plane (R103). -/
structure CCandidate where
  mode : Nat
  costCb : Nat
  costCr : Nat
  predCb : List Byte
  predCr : List Byte
  deriving DecidableEq, Repr

/-- The shared cost, the sum of both planes' SADs (R103). -/
def CCandidate.cost (c : CCandidate) : Nat := c.costCb + c.costCr

/-- A chroma mode on both planes (R103). -/
def CMode.candidate (m : CMode) (pb pr : Predictor) (srcCb srcCr : List Byte) : CCandidate :=
  { mode := m.num
    costCb := sad (m.block pb) srcCb
    costCr := sad (m.block pr) srcCr
    predCb := m.block pb
    predCr := m.block pr }

/-- The legal chroma candidates in ascending number (R103). Both planes have the same availability (40_neighbours.md R79). -/
def cCandidates (pb pr : Predictor) (srcCb srcCr : List Byte) : List CCandidate :=
  (CMode.all.filter (fun m => m.legal pb.av)).map (fun m => m.candidate pb pr srcCb srcCr)

/-- `SelectC` (R103). DC is always legal, so the default is never taken. -/
def selectC (pb pr : Predictor) (srcCb srcCr : List Byte) : CCandidate :=
  (argminFirst CCandidate.cost (cCandidates pb pr srcCb srcCr)).getD
    { mode := 0, costCb := 0, costCr := 0, predCb := [], predCr := [] }

end Sys2Proof.Machine
end

