-- ==== Sys2Proof/Machine/Commit.lean ====
section
/-! DEFINITION. The evaluation of a macroblock (45_commands.md R119) and its commit (44_selection.md R108 to R113). -/

namespace Sys2Proof.Machine

/-- What the evaluation of a macroblock yields: the sixteen 4x4 choices (R91), the 16x16 choice (R97) and the chroma choice
(R103). -/
structure Evaluation where
  i4 : List Candidate
  i16 : Candidate
  c : CCandidate
  deriving DecidableEq, Repr

/-- The evaluation of macroblock `n`, on the samples as they stand at issue (R119). -/
def State.evaluate (s : State) (bsrc : Bool) (n : Nat) : Evaluation where
  i4 := s.i4Pass bsrc n
  i16 := selectI16 (s.predictor16 n) s.srcY
  c := selectC (s.predictorC dntCbBase n) (s.predictorC dntCrBase n) s.srcCb s.srcCr

/-- `cost4` (R91). -/
def Evaluation.cost4 (e : Evaluation) : Nat := costOf4 e.i4
/-- `is_i16` (R106). -/
def Evaluation.isI16 (e : Evaluation) : Bool := isI16Of e.cost4 e.i16.cost
/-- `costL` (R106). -/
def Evaluation.costL (e : Evaluation) : Nat := if e.isI16 then e.i16.cost else e.cost4
/-- `predY` (R106). -/
def Evaluation.predY (e : Evaluation) : List Byte := if e.isI16 then e.i16.pred else assemble4 e.i4
/-- `pcm` (R107). -/
def Evaluation.pcm (e : Evaluation) : Bool := pcmOf e.costL e.c.cost
/-- `I4MODE[0..15]` (R91). -/
def Evaluation.i4Modes (e : Evaluation) : List Nat := e.i4.map Candidate.mode

/-- The bytes PRED receives: the luma and the two chroma predictions (R108). -/
def Evaluation.predBytes (e : Evaluation) : List Byte := e.predY ++ e.c.predCb ++ e.c.predCr

/-- The source samples in the order of PRED: Y, Cb, Cr (10_state.md R37, R39). -/
def State.srcBytes (s : State) : List Byte := s.srcY ++ s.srcCb ++ s.srcCr

/-- `WORK[i]`: the source sample under PCM, otherwise the residual, in 16 bits (R109). -/
def workValue (pcm : Bool) (src pred : Byte) : Half :=
  if pcm then BitVec.ofInt 16 (sampleOf src) else BitVec.ofInt 16 (sampleOf src - sampleOf pred)

/-- The bytes WORK receives (R109; little-endian, 20_memory.md R46). -/
def workBytes (pcm : Bool) (src pred : List Byte) : List Byte :=
  (List.zipWith (fun a b => leBytes 2 (workValue pcm a b).toNat) src pred).flatten

/-- The samples one plane of the DNT receives: the source under PCM or `BSRC = 0`, otherwise the prediction (R110). -/
def dntSource (pcm bsrc : Bool) (src pred : List Byte) : List Byte := if pcm || !bsrc then src else pred

/-- The sixteen bytes of a mode record (R111). -/
def Evaluation.recordBytes (e : Evaluation) : List Byte :=
  leBytes 4 (recordWord0 e.isI16 e.pcm e.i16.mode e.c.mode) ++ leBytes 4 (recordModes e.isI16 (e.i4Modes.take 8)) ++
    leBytes 4 (recordModes e.isI16 (e.i4Modes.drop 8)) ++ leBytes 4 0

/-- The DNT after the commit of macroblock `n` (R110). -/
def State.commitDnt (s : State) (bsrc : Bool) (n : Nat) (e : Evaluation) (m : Memory) : Memory :=
  let y := Memory.writeRows (planeAt dntYBase s.strideY (s.lumaX n) (s.lumaY n)) s.strideY 16
    (dntSource e.pcm bsrc s.srcY e.predY) m
  let cb := Memory.writeRows (planeAt dntCbBase s.strideC (s.chromaX n) (s.chromaY n)) s.strideC 8
    (dntSource e.pcm bsrc s.srcCb e.c.predCb) y
  Memory.writeRows (planeAt dntCrBase s.strideC (s.chromaX n) (s.chromaY n)) s.strideC 8
    (dntSource e.pcm bsrc s.srcCr e.c.predCr) cb

/-- The memories after the commit of macroblock `n`: PRED (R108), WORK (R109), the DNT (R110) and record `n` (R111). -/
def State.commitMem (s : State) (bsrc : Bool) (n : Nat) (e : Evaluation) : Memory :=
  Memory.writeRun (modeBase + 16 * n) e.recordBytes
    (s.commitDnt bsrc n e
      (Memory.writeRun workBase (workBytes e.pcm s.srcBytes e.predBytes)
        (Memory.writeRun predBase e.predBytes s.mem)))

/-- `I4COST[k]` of a list of choices (R112). -/
def i4CostAt (cs : List Candidate) (k : Nat) : Word := BitVec.ofNat 32 ((cs.map Candidate.cost).getD k 0)

/-- `I4COST[0..15]` (R112). -/
def i4CostVector (cs : List Candidate) : Vector Word 16 :=
  #v[i4CostAt cs 0, i4CostAt cs 1, i4CostAt cs 2, i4CostAt cs 3, i4CostAt cs 4, i4CostAt cs 5, i4CostAt cs 6, i4CostAt cs 7,
    i4CostAt cs 8, i4CostAt cs 9, i4CostAt cs 10, i4CostAt cs 11, i4CostAt cs 12, i4CostAt cs 13, i4CostAt cs 14, i4CostAt cs 15]

/-- The commit of macroblock `n`: the memories (R108 to R111), the result registers (R112) and the raster cursor (R113), in one
update. -/
def State.commit (s : State) (bsrc : Bool) (n : Nat) (e : Evaluation) : State :=
  { s with
    mem := s.commitMem bsrc n e
    avail := availWord (mbAvail s.mbCols.toNat n)
    result := resultWord e.isI16 e.pcm e.i16.mode e.c.mode
    i4bestLo := BitVec.ofNat 32 (nibbles (e.i4Modes.take 8))
    i4bestHi := BitVec.ofNat 32 (nibbles (e.i4Modes.drop 8))
    i4cost := i4CostVector e.i4
    costI16 := BitVec.ofNat 32 e.i16.cost
    costI4 := BitVec.ofNat 32 e.cost4
    costLuma := BitVec.ofNat 32 e.costL
    costChroma := BitVec.ofNat 32 e.c.cost
    costCb := BitVec.ofNat 32 e.c.costCb
    costCr := BitVec.ofNat 32 e.c.costCr
    nextMb := BitVec.ofNat 16 (n + 1) }

end Sys2Proof.Machine
end

