-- ==== Sys2Proof/Machine/Control.lean ====
section
/-! DEFINITION. The commands `NOP` (45_commands.md R117) and `FRAME_INIT` (R118). -/

namespace Sys2Proof.Machine

/-- `NOP`: only the issue and the completion take place (R117). -/
def execNop (s : State) : Host.Outcome State Fault Refusal :=
  .next (s.runCommand (encode .nop) (fun _ t => .ok t))

/-- The registers a successful `FRAME_INIT` clears (R118). -/
def State.clearResults (s : State) : State :=
  { s with
    avail := 0#32
    result := 0#32
    i4bestLo := 0#32
    i4bestHi := 0#32
    costI16 := 0#32
    costI4 := 0#32
    costLuma := 0#32
    costChroma := 0#32
    costCb := 0#32
    costCr := 0#32
    probeSad := 0#32
    probeStat := 0#32
    i4cost := State.reset.i4cost }

/-- The frame of `FRAME_W` by `FRAME_H` samples begins (R118, 10_state.md R25). -/
def State.startFrame (s : State) : State :=
  let cols := s.frameW.toNat / 16
  let rows := s.frameH.toNat / 16
  { s.clearResults with
    mbCols := BitVec.ofNat 16 cols
    mbRows := BitVec.ofNat 16 rows
    mbCount := BitVec.ofNat 16 (cols * rows)
    nextMb := 0#16
    status := { s.status with frameValid := true } }

/-- The execution of `FRAME_INIT`: `ERR_DIM`, then `ERR_RANGE`, then the new frame (R118). -/
def State.frameInit (s : State) : Except CmdError State :=
  if s.frameW.toNat = 0 ∨ s.frameH.toNat = 0 ∨ s.frameW.toNat % 16 ≠ 0 ∨ s.frameH.toNat % 16 ≠ 0 then .error .dim
  else if Config.maxW < s.frameW.toNat ∨ Config.maxH < s.frameH.toNat then .error .range
  else .ok s.startFrame

/-- `FRAME_INIT` (R118). -/
def execFrameInit (s : State) : Host.Outcome State Fault Refusal :=
  .next (s.runCommand (encode .frameInit) (fun _ t => t.frameInit))

end Sys2Proof.Machine
end

