-- ==== Sys2Proof/Machine/Bus.lean ====
section
/-! DEFINITION. The host's bus accesses (20_memory.md R46 to R54, 10_state.md R15 to R36, 60_exceptions.md R127, R128). -/

namespace Sys2Proof.Machine

/-- A register as a read returns it (10_state.md R15 to R35). -/
def State.readReg (s : State) (r : Reg) : Word :=
  match r with
  | .id => Config.idValue
  | .ctrl => s.ctrlWord
  | .cmd => 0#32
  | .status => s.statusWord
  | .frameW => s.frameW.setWidth 32
  | .frameH => s.frameH.setWidth 32
  | .mbCols => s.mbCols.setWidth 32
  | .mbRows => s.mbRows.setWidth 32
  | .mbCount => s.mbCount.setWidth 32
  | .nextMb => s.nextMb.setWidth 32
  | .mbIdx => s.mbIdx.setWidth 32
  | .avail => s.avail
  | .result => s.result
  | .i4bestLo => s.i4bestLo
  | .i4bestHi => s.i4bestHi
  | .costI16 => s.costI16
  | .costI4 => s.costI4
  | .costLuma => s.costLuma
  | .costChroma => s.costChroma
  | .costCb => s.costCb
  | .costCr => s.costCr
  | .probeSad => s.probeSad
  | .probeStat => s.probeStat
  | .thrLuma => BitVec.ofNat 32 Config.thrLuma
  | .thrChroma => BitVec.ofNat 32 Config.thrChroma
  | .i4cost k => s.i4cost[k]

/-- A write to a register of an idle engine: `CMD` issues a command (R18), `STATUS` clears bits (R20 to R22), the RW registers
take their fields, and a write to a RO register is ignored (R36). -/
def State.writeReg (r : Reg) (v : Word) (s : State) : State :=
  match r with
  | .ctrl => { s with irqEn := v.getLsbD 0, bsrc := v.getLsbD 1 }
  | .cmd => s.issue v
  | .status => s.clearStatus v
  | .frameW => { s with frameW := v.setWidth 16 }
  | .frameH => { s with frameH := v.setWidth 16 }
  | .mbIdx => { s with mbIdx := v.setWidth 16 }
  | .id | .mbCols | .mbRows | .mbCount | .nextMb | .avail | .result | .i4bestLo | .i4bestHi | .costI16 | .costI4 => s
  | .costLuma | .costChroma | .costCb | .costCr | .probeSad | .probeStat | .thrLuma | .thrChroma | .i4cost _ => s

/-- The bytes a read of a window returns, as an unsigned number (R46). -/
def State.windowValue (s : State) (n : Width) (off : Nat) : Word := BitVec.ofNat 32 (leValue (s.mem.readRun off n.bytes))

/-- The record of the mode store at an offset is visible: it is committed in the current frame (R42, R54). -/
def State.recordVisible (s : State) (off : Nat) : Bool :=
  s.status.frameValid && decide ((off - modeBase) / 16 < s.nextMb.toNat)

/-- What a read that is answered without a bus error returns from an idle engine (R46, R54). -/
def State.readValue (s : State) (n : Width) (off : Nat) : Word :=
  match regionOf off with
  | some .registers => match regAt off with
    | some r => s.readReg r
    | none => 0#32
  | some .modeStore => if s.recordVisible off then s.windowValue n off else 0#32
  | _ => s.windowValue n off

/-- The offset is a register whose value a read returns exactly while `BUSY = 1` (R50). -/
def busyReadable (off : Nat) : Bool :=
  match regionOf off with
  | some .registers => match regAt off with
    | some r => r.busyReadable
    | none => false
  | _ => false

/-- The state with an answer on the bus. -/
def State.answer (r : Response) (s : State) : State := { s with bus := some r }

/-- A read draws a free value where the spec leaves its data unspecified (R48, R50; log 5). -/
def State.draw (s : State) : State := { s with draws := s.draws + 1 }

/-- A host read of `n` bytes at `off` (R46 to R50). It changes nothing but the answer and the count of draws (R51). -/
def State.busRead (n : Width) (off : Nat) (s : State) : State :=
  if accessOk false n off = false then s.draw.answer (.readError (s.freeRead n))
  else if s.busy && !busyReadable off then s.draw.answer (.readOk (s.freeRead n))
  else s.answer (.readOk (s.readValue n off))

/-- A host write of the low `n` bytes of `v` at `off` (R46 to R50): a bus error has no effect (R48), while `BUSY = 1` the write
is dropped and sets `OVR` (R128), and otherwise it reaches a register or a window. -/
def State.busWrite (n : Width) (off : Nat) (v : Word) (s : State) : State :=
  if accessOk true n off = false then s.answer .writeError
  else if s.busy then { s with status := { s.status with ovr := true } }.answer .writeOk
  else match regAt off with
    | some r => (s.writeReg r v).answer .writeOk
    | none => (s.setMem (s.mem.writeRun off (leBytes n.bytes v.toNat))).answer .writeOk

end Sys2Proof.Machine
end

