-- ==== Sys2Proof/Machine/Predict.lean ====
section
/-! DEFINITION. The command `PREDICT_MB` (45_commands.md R119). -/

namespace Sys2Proof.Machine

/-- The execution of `PREDICT_MB`: the checks, then evaluate, select and commit (R119). -/
def State.predictMb (l : Latch) (s : State) : Except CmdError State :=
  match s.checkMb l with
  | .error e => .error e
  | .ok n => .ok (s.commit l.bsrc n (s.evaluate l.bsrc n))

/-- `PREDICT_MB` (R119). -/
def execPredictMb (s : State) : Host.Outcome State Fault Refusal :=
  .next (s.runCommand (encode .predictMb) (fun l t => t.predictMb l))

end Sys2Proof.Machine
end

