-- ==== Sys2Proof/Machine/Probe.lean ====
section
/-! DEFINITION. The probes (45_commands.md R120 to R123): one mode of one block is evaluated and nothing is committed. -/

namespace Sys2Proof.Machine

/-- What a probe yields: where in PROBE_PRED its prediction goes, the prediction, its SAD, and whether the mode is legal
(R120). -/
structure ProbeResult where
  dest : Nat
  pred : List Byte
  sad : Nat
  legal : Bool
  deriving DecidableEq, Repr

/-- A 4x4 mode on block `k`, after the chain of the blocks before it (R121). The prediction goes to bytes 0 to 15 (10_state.md
R40). -/
def State.probe4 (s : State) (bsrc : Bool) (n : Nat) (m : I4Mode) (k : Nat) : ProbeResult :=
  let p := s.predictor4 n (intraBlocks bsrc s.srcY (s.i4Chain bsrc n k)) k
  { dest := probeBase, pred := m.block p, sad := sad (m.block p) (subBlock s.srcY k), legal := m.legal p.av }

/-- A 16x16 mode (R122). The prediction goes to bytes 0 to 255 (10_state.md R40). -/
def State.probe16 (s : State) (n : Nat) (m : I16Mode) : ProbeResult :=
  let p := s.predictor16 n
  { dest := probeBase, pred := m.block p, sad := sad (m.block p) s.srcY, legal := m.legal p.av }

/-- A chroma mode on both planes (R123). The predictions go to bytes 256 to 383 (10_state.md R40). -/
def State.probeC (s : State) (n : Nat) (m : CMode) : ProbeResult :=
  let c := m.candidate (s.predictorC dntCbBase n) (s.predictorC dntCrBase n) s.srcCb s.srcCr
  { dest := probeBase + 256, pred := c.predCb ++ c.predCr, sad := c.cost, legal := m.legal (s.predictorC dntCbBase n).av }

/-- What a probe writes: its part of PROBE_PRED, `AVAIL`, `PROBE_SAD` and `PROBE_STAT` (R120). -/
def State.recordProbe (s : State) (n kind mode blk : Nat) (r : ProbeResult) : State :=
  { s with
    mem := Memory.writeRun r.dest r.pred s.mem
    avail := availWord (mbAvail s.mbCols.toNat n)
    probeSad := BitVec.ofNat 32 r.sad
    probeStat := probeStatWord r.legal kind mode blk }

/-- The execution of a probe: the checks, then the evaluation (R120). -/
def State.probe (kind mode blk : Nat) (eval : Bool → Nat → ProbeResult) (l : Latch) (s : State) : Except CmdError State :=
  match s.checkMb l with
  | .error e => .error e
  | .ok n => .ok (s.recordProbe n kind mode blk (eval l.bsrc n))

/-- A 4x4 probe (R121): `KIND = 0`. -/
def execProbe4 (i : Instr) (m : I4Mode) (blk : Nat) (s : State) : State :=
  s.runCommand (encode i) (fun l t => t.probe 0 m.num blk (fun bsrc n => t.probe4 bsrc n m blk) l)

/-- A 16x16 probe (R122): `KIND = 1`. -/
def execProbe16 (i : Instr) (m : I16Mode) (s : State) : State :=
  s.runCommand (encode i) (fun l t => t.probe 1 m.num 0 (fun _ n => t.probe16 n m) l)

/-- A chroma probe (R123): `KIND = 2`. -/
def execProbeC (i : Instr) (m : CMode) (s : State) : State :=
  s.runCommand (encode i) (fun l t => t.probe 2 m.num 0 (fun _ n => t.probeC n m) l)

/-- `PROBE.I4.V blk` (R121, mode rule R81). -/
def execProbeI4V (blk : Nat) (s : State) : Host.Outcome State Fault Refusal :=
  .next (execProbe4 (.probeI4V blk) .v blk s)

/-- `PROBE.I4.H blk` (R121, mode rule R82). -/
def execProbeI4H (blk : Nat) (s : State) : Host.Outcome State Fault Refusal :=
  .next (execProbe4 (.probeI4H blk) .h blk s)

/-- `PROBE.I4.DC blk` (R121, mode rule R83). -/
def execProbeI4Dc (blk : Nat) (s : State) : Host.Outcome State Fault Refusal :=
  .next (execProbe4 (.probeI4Dc blk) .dc blk s)

/-- `PROBE.I4.DDL blk` (R121, mode rule R84). -/
def execProbeI4Ddl (blk : Nat) (s : State) : Host.Outcome State Fault Refusal :=
  .next (execProbe4 (.probeI4Ddl blk) .ddl blk s)

/-- `PROBE.I4.DDR blk` (R121, mode rule R85). -/
def execProbeI4Ddr (blk : Nat) (s : State) : Host.Outcome State Fault Refusal :=
  .next (execProbe4 (.probeI4Ddr blk) .ddr blk s)

/-- `PROBE.I4.VR blk` (R121, mode rule R86). -/
def execProbeI4Vr (blk : Nat) (s : State) : Host.Outcome State Fault Refusal :=
  .next (execProbe4 (.probeI4Vr blk) .vr blk s)

/-- `PROBE.I4.HD blk` (R121, mode rule R87). -/
def execProbeI4Hd (blk : Nat) (s : State) : Host.Outcome State Fault Refusal :=
  .next (execProbe4 (.probeI4Hd blk) .hd blk s)

/-- `PROBE.I4.VL blk` (R121, mode rule R88). -/
def execProbeI4Vl (blk : Nat) (s : State) : Host.Outcome State Fault Refusal :=
  .next (execProbe4 (.probeI4Vl blk) .vl blk s)

/-- `PROBE.I4.HU blk` (R121, mode rule R89). -/
def execProbeI4Hu (blk : Nat) (s : State) : Host.Outcome State Fault Refusal :=
  .next (execProbe4 (.probeI4Hu blk) .hu blk s)

/-- `PROBE.I16.V` (R122, mode rule R93). -/
def execProbeI16V (s : State) : Host.Outcome State Fault Refusal :=
  .next (execProbe16 .probeI16V .v s)

/-- `PROBE.I16.H` (R122, mode rule R94). -/
def execProbeI16H (s : State) : Host.Outcome State Fault Refusal :=
  .next (execProbe16 .probeI16H .h s)

/-- `PROBE.I16.DC` (R122, mode rule R95). -/
def execProbeI16Dc (s : State) : Host.Outcome State Fault Refusal :=
  .next (execProbe16 .probeI16Dc .dc s)

/-- `PROBE.I16.PLANE` (R122, mode rule R96). -/
def execProbeI16Plane (s : State) : Host.Outcome State Fault Refusal :=
  .next (execProbe16 .probeI16Plane .plane s)

/-- `PROBE.C.DC` (R123, mode rule R99). -/
def execProbeCDc (s : State) : Host.Outcome State Fault Refusal :=
  .next (execProbeC .probeCDc .dc s)

/-- `PROBE.C.H` (R123, mode rule R100). -/
def execProbeCH (s : State) : Host.Outcome State Fault Refusal :=
  .next (execProbeC .probeCH .h s)

/-- `PROBE.C.V` (R123, mode rule R101). -/
def execProbeCV (s : State) : Host.Outcome State Fault Refusal :=
  .next (execProbeC .probeCV .v s)

/-- `PROBE.C.PLANE` (R123, mode rule R102). -/
def execProbeCPlane (s : State) : Host.Outcome State Fault Refusal :=
  .next (execProbeC .probeCPlane .plane s)

end Sys2Proof.Machine
end

