-- ==== Sys2Proof/Machine/Dispatch.lean ====
section
/-! DEFINITION. The dispatch of a command to its meaning: one arm for each row of spec/opcode_table.json (45_commands.md R116). -/

namespace Sys2Proof.Machine

def exec (i : Instr) (s : State) : Host.Outcome State Fault Refusal :=
  match i with
  | .nop => Sys2Proof.Machine.execNop s
  | .frameInit => Sys2Proof.Machine.execFrameInit s
  | .predictMb => Sys2Proof.Machine.execPredictMb s
  | .probeI4V blk => Sys2Proof.Machine.execProbeI4V blk s
  | .probeI4H blk => Sys2Proof.Machine.execProbeI4H blk s
  | .probeI4Dc blk => Sys2Proof.Machine.execProbeI4Dc blk s
  | .probeI4Ddl blk => Sys2Proof.Machine.execProbeI4Ddl blk s
  | .probeI4Ddr blk => Sys2Proof.Machine.execProbeI4Ddr blk s
  | .probeI4Vr blk => Sys2Proof.Machine.execProbeI4Vr blk s
  | .probeI4Hd blk => Sys2Proof.Machine.execProbeI4Hd blk s
  | .probeI4Vl blk => Sys2Proof.Machine.execProbeI4Vl blk s
  | .probeI4Hu blk => Sys2Proof.Machine.execProbeI4Hu blk s
  | .probeI16V => Sys2Proof.Machine.execProbeI16V s
  | .probeI16H => Sys2Proof.Machine.execProbeI16H s
  | .probeI16Dc => Sys2Proof.Machine.execProbeI16Dc s
  | .probeI16Plane => Sys2Proof.Machine.execProbeI16Plane s
  | .probeCDc => Sys2Proof.Machine.execProbeCDc s
  | .probeCH => Sys2Proof.Machine.execProbeCH s
  | .probeCV => Sys2Proof.Machine.execProbeCV s
  | .probeCPlane => Sys2Proof.Machine.execProbeCPlane s

end Sys2Proof.Machine
end

