-- ==== Sys2Proof/Machine/Events.lean ====
section
/-! DEFINITION. What one event of the script does: a bus access, the engine's turn, a reset (00_scope.md R6, 45_commands.md R115,
R116). -/

namespace Sys2Proof.Machine

/-- The engine's turn: the command in flight executes and completes in one atomic step (45_commands.md R115, R116); an idle
engine does nothing. -/
def engineTurn (s : State) : Host.Outcome State Fault Refusal :=
  match s.inflight with
  | none => .next s
  | some l =>
    match decode l.word with
    | .ok i => exec i s
    | .error _ => .next s.rejectWord

/-- One event (00_scope.md R6, R10). -/
def State.event (e : Event) (s : State) : Host.Outcome State Fault Refusal :=
  match e with
  | .read n off => .next (s.busRead n off.toNat)
  | .write n off v => .next (s.busWrite n off.toNat v)
  | .engine => engineTurn s
  | .reset contents => .next (s.resetEvent contents)

end Sys2Proof.Machine
end

