-- ==== Sys2Proof/Machine/Step.lean ====
section
/-! DEFINITION. One step: the next event of the script happens (00_scope.md R6; log 3). -/

namespace Sys2Proof.Machine

/-- One step. With no event to come the command in flight completes, as every command does in a finite time
(70_reset_and_hazards.md R151). -/
def step (s : State) : Host.Outcome State Fault Refusal :=
  match s.script with
  | [] => engineTurn s
  | e :: rest => State.event e { s with script := rest }

/-- The command word `w` written to `CMD` (45_commands.md R114), and the engine's turn next: the engine fetches no instructions
(10_state.md R14), and the in-flight latch is where it takes its next command from (R43; log 4). -/
def State.withFetchWord (s : State) (nbits w : Nat) : State :=
  { s.issue (tableWord nbits w) with script := .engine :: s.script }

end Sys2Proof.Machine
end

