-- ==== Sys2Proof/Safety.lean ====
section
/-! DEFINITION. The words claims are stated in: the conditions a state meets in every run (the machine's invariants), the
conditions under which a command goes through, and what a safe run is. -/

namespace Sys2Proof.Machine

/-! ### Invariants -/

/-- The memories are in canonical form. -/
def State.memoryCanonical (s : State) : Prop := s.mem.wf

/-- Every listed byte lies in one of the memories of the aperture map (20_memory.md R52). -/
def State.memoryMapped (s : State) : Prop := ∀ c ∈ s.mem, isMemory c.1 = true

/-- `DONE` and `ERR` are never both 1, `ERRCODE` is 0 exactly when `ERR` is 0, its codes are those of R124, and both flags are 0
while a command is in flight (10_state.md R20, R21). -/
def State.statusOk (s : State) : Prop :=
  ¬(s.status.done = true ∧ s.status.err = true) ∧ (s.status.errcode = 0#4 ↔ s.status.err = false) ∧
    s.status.errcode.toNat ≤ 6 ∧ (s.busy = true → s.status.done = false ∧ s.status.err = false)

/-- The geometry of the frame (10_state.md R25, R26; 45_commands.md R118): the counts agree, they are within the limits, the
cursor does not pass the last macroblock, and there is a frame exactly when there is a macroblock. -/
def State.geometryOk (s : State) : Prop :=
  s.mbCount.toNat = s.mbCols.toNat * s.mbRows.toNat ∧ 16 * s.mbCols.toNat ≤ Config.maxW ∧
    16 * s.mbRows.toNat ≤ Config.maxH ∧ s.nextMb.toNat ≤ s.mbCount.toNat ∧
    (s.status.frameValid = true ↔ 0 < s.mbCount.toNat)

/-- What a command in flight has latched is still what the registers hold, and `LASTOP` is its opcode (20_memory.md R59,
10_state.md R23, R43). -/
def State.latchOk (s : State) : Prop :=
  ∀ l, s.inflight = some l → l.idx = s.mbIdx ∧ l.bsrc = s.bsrc ∧ s.status.lastop = l.word.setWidth 4

/-- The cost registers agree with each other and stay in their ranges (10_state.md R31, R32, R33, R35). -/
def State.costsOk (s : State) : Prop :=
  (∀ k : Fin 16, s.i4cost[k].toNat ≤ 4080) ∧
    s.costI4.toNat = (s.i4cost.toList.map BitVec.toNat).sum ∧
    s.costI16.toNat ≤ 65280 ∧
    s.costLuma = (if s.costI4.toNat < s.costI16.toNat then s.costI4 else s.costI16) ∧
    s.costCb.toNat ≤ 16320 ∧ s.costCr.toNat ≤ 16320 ∧
    s.costChroma.toNat = s.costCb.toNat + s.costCr.toNat ∧
    s.probeSad.toNat ≤ 65280

/-- `RESULT` is 0, or VALID with `IS_I16` and `PCM` as the cost registers say and mode numbers 0 to 3 (10_state.md R29,
44_selection.md R106, R107). -/
def State.resultOk (s : State) : Prop :=
  s.result = 0#32 ∨
    ∃ i16best cmode : Nat, i16best ≤ 3 ∧ cmode ≤ 3 ∧
      s.result.toNat =
        1 + (if s.costI4.toNat < s.costI16.toNat then 0 else 2) +
          (if 2000 < s.costLuma.toNat ∨ 1000 < s.costChroma.toNat then 4 else 0) + 16 * i16best + 256 * cmode

/-- All of them. -/
def State.ok (s : State) : Prop :=
  s.memoryCanonical ∧ s.memoryMapped ∧ s.statusOk ∧ s.geometryOk ∧ s.latchOk ∧ s.costsOk ∧ s.resultOk

/-! ### Commands -/

/-- A command is in flight with latch `l`, and it passes the checks of `PREDICT_MB` and `PROBE` (45_commands.md R116). -/
def State.readyFor (s : State) (l : Latch) : Prop :=
  s.inflight = some l ∧ s.status.frameValid = true ∧ l.idx.toNat < s.mbCount.toNat ∧ l.idx = s.nextMb

/-- The commands that work on a macroblock and are checked for it (R116). -/
def needsMb (i : Instr) : Bool :=
  match i with
  | .nop | .frameInit => false
  | .predictMb => true
  | .probeI4V _ | .probeI4H _ | .probeI4Dc _ | .probeI4Ddl _ | .probeI4Ddr _ | .probeI4Vr _ | .probeI4Hd _ | .probeI4Vl _
  | .probeI4Hu _ => true
  | .probeI16V | .probeI16H | .probeI16Dc | .probeI16Plane => true
  | .probeCDc | .probeCH | .probeCV | .probeCPlane => true

/-- The probe of a 4x4 mode (30_encoding.md R63, R67). -/
def I4Mode.probe (m : I4Mode) (blk : Nat) : Instr :=
  match m with
  | .v => .probeI4V blk
  | .h => .probeI4H blk
  | .dc => .probeI4Dc blk
  | .ddl => .probeI4Ddl blk
  | .ddr => .probeI4Ddr blk
  | .vr => .probeI4Vr blk
  | .hd => .probeI4Hd blk
  | .vl => .probeI4Vl blk
  | .hu => .probeI4Hu blk

/-- The probe of a 16x16 mode (30_encoding.md R63, R67). -/
def I16Mode.probe (m : I16Mode) : Instr :=
  match m with
  | .v => .probeI16V
  | .h => .probeI16H
  | .dc => .probeI16Dc
  | .plane => .probeI16Plane

/-- The probe of a chroma mode (30_encoding.md R63, R67). -/
def CMode.probe (m : CMode) : Instr :=
  match m with
  | .dc => .probeCDc
  | .h => .probeCH
  | .v => .probeCV
  | .plane => .probeCPlane

/-- A border whose left side is the other's top and the reverse. -/
def Predictor.transpose (p : Predictor) : Predictor :=
  { corner := p.corner, up := p.left, left := p.up
    av := { up := p.av.left, left := p.av.up, upright := p.av.upright, upleft := p.av.upleft } }

/-! ### Runs -/

/-- The host has kept to 70_reset_and_hazards.md R142: no write of its has been dropped. -/
def State.noOverrun (s : State) : Prop := s.status.ovr = false

/-- The last command did not fail (60_exceptions.md R124). -/
def State.noCommandError (s : State) : Prop := s.status.err = false

/-- A run of `k` steps from `s` is safe: it reaches a state that meets the invariants, with no overrun and no command error. -/
def SafeRun (k : Nat) (s : State) : Prop :=
  ∃ t, Host.Core.run Sys2Proof.core k s = .next t ∧ t.ok ∧ t.noOverrun ∧ t.noCommandError

end Sys2Proof.Machine
end

