-- ==== Sys2Proof/Certificates/Slice0/Obligations.lean ====
section
/-! DEFINITION. The statements for the provers, each read from the numbered rules of spec/ its docstring cites. -/

open Sys2Proof Sys2Proof.Machine

/-! ### Encoding -/

/-- 30_encoding.md R62, R63: every command decodes back from its word, with every block index. -/
def Obligations.DecodeOfEncode : Prop :=
  ∀ i : Instr, WellFormed i = true → decode (encode i) = .ok i

/-- 30_encoding.md R62, R63: a word that decodes is the encoding of what it decodes to, so each command has one word. -/
def Obligations.EncodeOfDecode : Prop :=
  ∀ (w : Word) (i : Instr), decode w = .ok i → WellFormed i = true ∧ encode i = w

/-- 30_encoding.md R62 to R64: exactly the words of the two tables decode. -/
def Obligations.LegalWordsAreTheTables : Prop :=
  ∀ w : Word,
    (∃ i, decode w = .ok i) ↔
      w = 0x00000000#32 ∨ w = 0x00000001#32 ∨ w = 0x00000002#32 ∨
        (w.extractLsb' 0 4 = 3#4 ∧ w.extractLsb' 6 2 = 0#2 ∧ w.extractLsb' 16 16 = 0#16 ∧
          ((w.extractLsb' 4 2 = 0#2 ∧ (w.extractLsb' 8 4).toNat ≤ 8) ∨
            ((w.extractLsb' 4 2 = 1#2 ∨ w.extractLsb' 4 2 = 2#2) ∧ (w.extractLsb' 8 4).toNat ≤ 3 ∧
              w.extractLsb' 12 4 = 0#4)))

/-- Words written out in 30_encoding.md R62, R63 and 45_commands.md R120. -/
def Obligations.WrittenWordsDecode : Prop :=
  decode 0x00000000#32 = .ok .nop ∧ decode 0x00000001#32 = .ok .frameInit ∧ decode 0x00000002#32 = .ok .predictMb ∧
    decode 0x00006403#32 = .ok (.probeI4Ddr 6) ∧ decode 0x00000803#32 = .ok (.probeI4Hu 0) ∧
    decode 0x00000313#32 = .ok .probeI16Plane ∧ decode 0x00000023#32 = .ok .probeCDc

/-! ### The step -/

/-- 45_commands.md R115, R116: on the engine's turn, which also comes when no event is left, a command in flight whose word decodes
to `i` is executed: the step is `exec i`, the event taken off the script. So the word of a well-formed command, written to `CMD`
with the engine's turn next, runs exactly that command.
That the engine's turn comes from the script, and when no event is left, is the model's choice (log 3), and so is `withFetchWord`
(log 4). -/
def Obligations.StepRunsCommandInFlight : Prop :=
  (∀ (s : State) (l : Latch) (i : Instr), s.inflight = some l → decode l.word = .ok i →
    (∀ rest, s.script = .engine :: rest → step s = exec i { s with script := rest }) ∧
      (s.script = [] → step s = exec i s)) ∧
  (∀ (s : State) (i : Instr), WellFormed i = true →
    step (s.withFetchWord 32 (encode i).toNat) = exec i (s.issue (encode i)))

/-- 45_commands.md R115 lets a model make issue, execution and completion one transition: `exec` of a command at an idle engine is
its issue and its execution (the model's choice, log 8). -/
def Obligations.ExecAtIdleIssuesFirst : Prop :=
  ∀ (s : State) (i : Instr), s.inflight = none → exec i s = exec i (s.issue (encode i))

/-- 30_encoding.md R64, 60_exceptions.md R124: a word that is no command completes with `ERR_CMD` and changes nothing else. -/
def Obligations.IllegalWordEndsInErrCmd : Prop :=
  ∀ (s : State) (l : Latch) (e : DecodeError) (rest : List Event),
    s.inflight = some l → decode l.word = .error e → s.script = .engine :: rest →
      step s = .next { s with script := rest, inflight := none, status := { s.status with err := true, errcode := 1#4 } }

/-- 45_commands.md R114: a write to `CMD` while `BUSY = 0` issues the word, whatever it is; one while `BUSY = 1` is dropped and sets
`OVR`, whatever the bus answers. -/
def Obligations.CmdWriteIssues : Prop :=
  ∀ (s : State) (w : Word) (rest : List Event), s.script = .write .w32 0x008#23 w :: rest →
    (s.inflight = none →
      step s = .next
        { s with
          script := rest
          bus := some .writeOk
          inflight := some { word := w, idx := s.mbIdx, bsrc := s.bsrc }
          status :=
            { s.status with done := false, err := false, errcode := 0#4, lastop := w.extractLsb' 0 4 } }) ∧
    (∀ l, s.inflight = some l →
      ∃ r, step s = .next { s with script := rest, bus := some r, status := { s.status with ovr := true } })

/-- 70_reset_and_hazards.md R151, 45_commands.md R115: on the engine's turn a command in flight completes, whatever the state:
`BUSY` becomes 0, and `DONE` or `ERR` is 1. That a step with no event to come is the engine's turn is the model's choice (log 3). -/
def Obligations.EngineTurnCompletes : Prop :=
  ∀ s : State, (s.script = [] ∨ ∃ rest, s.script = .engine :: rest) →
    ∃ t, step s = .next t ∧ t.inflight = none ∧ t.script = s.script.tail ∧
      (s.inflight.isSome = true → t.status.done = true ∨ t.status.err = true)

/-- 70_reset_and_hazards.md R151: what a command does depends on nothing the host's reads change while it is in flight: the
coming events, the last answer and the count of draws. -/
def Obligations.LatencyDoesNotMatter : Prop :=
  ∀ (s : State) (i : Instr) (script : List Event) (bus : Option Response) (draws : Nat),
    ∃ t, exec i s = .next t ∧
      exec i { s with script := script, bus := bus, draws := draws } =
        .next { t with script := script, bus := bus, draws := draws }

/-! ### Bus accesses -/

/-- 20_memory.md R47, R49, R52 and 10_state.md R15: the accesses that are answered without a bus error. -/
def Obligations.AccessTableOfTheMap : Prop :=
  ∀ (isWrite : Bool) (n : Width) (off : Nat),
    accessOk isWrite n off = true ↔
      off % n.bytes = 0 ∧
        ((n = .w32 ∧ (off ≤ 0x060 ∨ (0x080 ≤ off ∧ off ≤ 0x0BF))) ∨
          (0x001000 ≤ off ∧ off ≤ 0x00117F) ∨
          (isWrite = false ∧
            ((0x002000 ≤ off ∧ off ≤ 0x0022FF) ∨ (0x003000 ≤ off ∧ off ≤ 0x00317F) ∨
              (0x005000 ≤ off ∧ off ≤ 0x00517F) ∨ (n = .w32 ∧ 0x100000 ≤ off ∧ off ≤ 0x11FDFF))) ∨
          (0x200000 ≤ off ∧ off ≤ 0x3FDFFF) ∨ (0x400000 ≤ off ∧ off ≤ 0x47F7FF) ∨ (0x480000 ≤ off ∧ off ≤ 0x4FF7FF))

/-- 20_memory.md R48: an access that gets a bus error changes no state, not even `OVR` while `BUSY = 1`; only the answer is new, which
for a read carries some data (the count of draws is the model's own, log 5). -/
def Obligations.BusErrorHasNoEffect : Prop :=
  ∀ (s : State) (n : Width) (off : BitVec 23) (rest : List Event),
    (∀ v, accessOk true n off.toNat = false → s.script = .write n off v :: rest →
      step s = .next { s with script := rest, bus := some .writeError }) ∧
    (accessOk false n off.toNat = false → s.script = .read n off :: rest →
      ∃ v d, step s = .next { s with script := rest, bus := some (.readError v), draws := d })

/-- 20_memory.md R50, R51: no read changes state, busy or idle, answered or in error. -/
def Obligations.ReadsChangeNothing : Prop :=
  ∀ (s : State) (n : Width) (off : BitVec 23) (rest : List Event), s.script = .read n off :: rest →
    ∃ r d, step s = .next { s with script := rest, bus := some r, draws := d }

/-- 10_state.md R22, 60_exceptions.md R128: a write that would succeed when idle, made while `BUSY = 1`, is dropped and sets
`OVR`, a write to `CMD` and one to `STATUS` included; the command in flight is unchanged. That the bus answers the dropped write
without an error is the model's reading (log 7). -/
def Obligations.BusyWriteIsAnOverrun : Prop :=
  ∀ (s : State) (l : Latch) (n : Width) (off : BitVec 23) (v : Word) (rest : List Event),
    s.inflight = some l → accessOk true n off.toNat = true → s.script = .write n off v :: rest →
      step s = .next { s with script := rest, bus := some .writeOk, status := { s.status with ovr := true } }

/-- 20_memory.md R50 and 10_state.md R16, R18, R28 to R35: what a read of each register returns. The first thirteen read so while
`BUSY = 1` as when idle, `STATUS` with `BUSY = 1`; the result registers read so when idle. -/
def Obligations.RegistersRead : Prop :=
  ∀ (s : State) (rest : List Event) (off : BitVec 23) (v : Word),
    s.script = .read .w32 off :: rest →
    ((off = 0x000#23 ∧ v = 0x49504501#32) ∨ (off = 0x004#23 ∧ v = s.ctrlWord) ∨ (off = 0x008#23 ∧ v = 0#32) ∨
      (off = 0x00C#23 ∧ v = s.statusWord) ∨ (off = 0x010#23 ∧ v = s.frameW.setWidth 32) ∨
      (off = 0x014#23 ∧ v = s.frameH.setWidth 32) ∨ (off = 0x018#23 ∧ v = s.mbCols.setWidth 32) ∨
      (off = 0x01C#23 ∧ v = s.mbRows.setWidth 32) ∨ (off = 0x020#23 ∧ v = s.mbCount.setWidth 32) ∨
      (off = 0x024#23 ∧ v = s.nextMb.setWidth 32) ∨ (off = 0x028#23 ∧ v = s.mbIdx.setWidth 32) ∨
      (off = 0x05C#23 ∧ v = 2000#32) ∨ (off = 0x060#23 ∧ v = 1000#32) ∨
      (s.inflight = none ∧
        ((off = 0x02C#23 ∧ v = s.avail) ∨ (off = 0x030#23 ∧ v = s.result) ∨ (off = 0x034#23 ∧ v = s.i4bestLo) ∨
          (off = 0x038#23 ∧ v = s.i4bestHi) ∨ (off = 0x03C#23 ∧ v = s.costI16) ∨ (off = 0x040#23 ∧ v = s.costI4) ∨
          (off = 0x044#23 ∧ v = s.costLuma) ∨ (off = 0x048#23 ∧ v = s.costChroma) ∨ (off = 0x04C#23 ∧ v = s.costCb) ∨
          (off = 0x050#23 ∧ v = s.costCr) ∨ (off = 0x054#23 ∧ v = s.probeSad) ∨ (off = 0x058#23 ∧ v = s.probeStat) ∨
          ∃ k : Fin 16, off.toNat = 0x080 + 4 * k.val ∧ v = s.i4cost[k]))) →
    step s = .next { s with script := rest, bus := some (.readOk v) }

/-- 10_state.md R19 to R23: the fields of `STATUS`, its reserved bits zero. -/
def Obligations.StatusWordFields : Prop :=
  ∀ s : State,
    s.statusWord.getLsbD 0 = s.inflight.isSome ∧ s.statusWord.getLsbD 1 = s.status.done ∧
      s.statusWord.getLsbD 2 = s.status.err ∧ s.statusWord.getLsbD 3 = s.status.ovr ∧
      s.statusWord.extractLsb' 4 4 = s.status.errcode ∧ s.statusWord.getLsbD 8 = s.status.frameValid ∧
      (s.statusWord.getLsbD 9 = true ↔ s.status.frameValid = true ∧ s.nextMb = s.mbCount) ∧
      s.statusWord.extractLsb' 10 2 = 0#2 ∧ s.statusWord.extractLsb' 12 4 = s.status.lastop ∧
      s.statusWord.extractLsb' 16 16 = 0#16

/-- 10_state.md R20 to R22: a write of `STATUS` while `BUSY = 0` clears `DONE`, `ERR` with `ERRCODE`, and `OVR`, each by a 1 in its
own bit, and writes nothing else. -/
def Obligations.StatusWriteOneToClear : Prop :=
  ∀ (s : State) (v : Word) (rest : List Event), s.inflight = none → s.script = .write .w32 0x00C#23 v :: rest →
    step s = .next
      { s with
        script := rest
        bus := some .writeOk
        status :=
          { done := if v.getLsbD 1 then false else s.status.done
            err := if v.getLsbD 2 then false else s.status.err
            errcode := if v.getLsbD 2 then 0#4 else s.status.errcode
            ovr := if v.getLsbD 3 then false else s.status.ovr
            frameValid := s.status.frameValid
            lastop := s.status.lastop } }

/-- 10_state.md R17, R24, R27, R36: what a write of each RW register leaves, its reserved bits reading as zero, and that a write
of a RO register is ignored. -/
def Obligations.RegisterWrites : Prop :=
  ∀ (s : State) (v : Word) (off : BitVec 23) (rest : List Event), s.inflight = none → s.script = .write .w32 off v :: rest →
    (off = 0x004#23 → ∃ t, step s = .next t ∧ t = { s with script := rest, bus := some .writeOk, irqEn := v.getLsbD 0, bsrc := v.getLsbD 1 } ∧
      t.readReg .ctrl = v &&& 0x00000003#32) ∧
    (off = 0x010#23 → ∃ t, step s = .next t ∧ t = { s with script := rest, bus := some .writeOk, frameW := t.frameW } ∧
      t.readReg .frameW = v &&& 0x0000FFFF#32) ∧
    (off = 0x014#23 → ∃ t, step s = .next t ∧ t = { s with script := rest, bus := some .writeOk, frameH := t.frameH } ∧
      t.readReg .frameH = v &&& 0x0000FFFF#32) ∧
    (off = 0x028#23 → ∃ t, step s = .next t ∧ t = { s with script := rest, bus := some .writeOk, mbIdx := t.mbIdx } ∧
      t.readReg .mbIdx = v &&& 0x0000FFFF#32) ∧
    (off.toNat % 4 = 0 →
      off = 0x000#23 ∨ (0x018 ≤ off.toNat ∧ off.toNat ≤ 0x024) ∨ (0x02C ≤ off.toNat ∧ off.toNat ≤ 0x060) ∨
        (0x080 ≤ off.toNat ∧ off.toNat ≤ 0x0BC) →
      step s = .next { s with script := rest, bus := some .writeOk })

/-- 20_memory.md R46, R51, R53: a host write to SRC or to a DNT plane stores its bytes, the byte at the offset being bits [7:0] of
the value, and changes nothing else. -/
def Obligations.WindowWriteStoresItsBytes : Prop :=
  ∀ (s : State) (n : Width) (off : BitVec 23) (v : Word) (rest : List Event),
    s.mem.wf → s.inflight = none → accessOk true n off.toNat = true → 0x001000 ≤ off.toNat →
    s.script = .write n off v :: rest →
      ∃ t, step s = .next t ∧ t = { s with script := rest, bus := some .writeOk, mem := t.mem } ∧
        (∀ k, k < n.bytes → t.mem.readByte (off.toNat + k) = v.extractLsb' (8 * k) 8) ∧
        (∀ a, a < off.toNat ∨ off.toNat + n.bytes ≤ a → t.mem.readByte a = s.mem.readByte a)

/-- 20_memory.md R46: a read of a sample window returns its bytes, least significant first, zero-extended. -/
def Obligations.WindowReadIsLittleEndian : Prop :=
  ∀ (s : State) (n : Width) (off : BitVec 23) (rest : List Event),
    s.inflight = none → accessOk false n off.toNat = true → 0x001000 ≤ off.toNat →
    (off.toNat < 0x100000 ∨ 0x200000 ≤ off.toNat) → s.script = .read n off :: rest →
      ∃ v, step s = .next { s with script := rest, bus := some (.readOk v) } ∧
        (∀ k, k < n.bytes → v.extractLsb' (8 * k) 8 = s.mem.readByte (off.toNat + k)) ∧ v.toNat < 256 ^ n.bytes

/-- 20_memory.md R54: a word of a mode record reads 0 unless this frame has committed the record, and a write to the mode store,
whatever its width, gives a bus error. -/
def Obligations.ModeStoreReadsAreGated : Prop :=
  ∀ (s : State) (rest : List Event),
    (∀ r w : Nat, s.inflight = none → r < 8160 → w < 4 →
      s.script = .read .w32 (BitVec.ofNat 23 (0x100000 + 16 * r + 4 * w)) :: rest →
        ∃ v, step s = .next { s with script := rest, bus := some (.readOk v) } ∧
          (s.status.frameValid = false ∨ s.nextMb.toNat ≤ r → v = 0#32) ∧
          (s.status.frameValid = true → r < s.nextMb.toNat →
            ∀ k, k < 4 → v.extractLsb' (8 * k) 8 = s.mem.readByte (0x100000 + 16 * r + 4 * w + k))) ∧
    (∀ (n : Width) (off : BitVec 23) (v : Word), 0x100000 ≤ off.toNat → off.toNat ≤ 0x11FDFF →
      s.script = .write n off v :: rest → step s = .next { s with script := rest, bus := some .writeError })

/-! ### Interrupt and reset -/

/-- 60_exceptions.md R132: the interrupt output is low while a command is in flight, and the completion of any command, with or
without error, drives it to `IRQ_EN`. -/
def Obligations.InterruptFollowsCompletion : Prop :=
  (∀ s : State, s.irq = (s.irqEn && (s.status.done || s.status.err))) ∧
  (∀ s : State, s.statusOk → s.inflight.isSome = true → s.irq = false) ∧
  (∀ (s : State) (l : Latch) (rest : List Event), s.inflight = some l → s.script = .engine :: rest →
    ∃ t, step s = .next t ∧ t.irq = s.irqEn)

/-- 70_reset_and_hazards.md R137, R138: a reset event, whatever the state, leaves every register at its reset value, no command in
flight, and the memories with any contents they may have. That the event carries the new contents, and that it takes back the
last bus answer, are the model's choices (logs 2, 15). -/
def Obligations.ResetEventResets : Prop :=
  ∀ (s : State) (contents : List Host.Cell) (rest : List Event), s.script = .reset contents :: rest →
    ∃ t, step s = .next t ∧
      t = { State.reset with mem := t.mem, script := rest, draws := s.draws } ∧ t.mem.wf ∧
      (Memory.wf contents → (∀ c ∈ contents, isMemory c.1 = true) → t.mem = contents) ∧
      t.statusWord = 0#32 ∧ t.ctrlWord = 0#32 ∧ t.irq = false

/-! ### NOP and FRAME_INIT -/

/-- 45_commands.md R117: `NOP` is the word 0 alone; it completes and changes nothing but `STATUS`, `DONE` and, at its issue,
`LASTOP`, with or without a frame. The last clause rests on the model's choice that `exec` of a command at an idle engine is its
issue and its execution in one (log 8). -/
def Obligations.NopCompletes : Prop :=
  (∀ w : Word, decode w = .ok .nop ↔ w = 0x00000000#32) ∧
  (∀ (s : State) (l : Latch), s.inflight = some l →
    exec .nop s = .next { s with inflight := none, status := { s.status with done := true } }) ∧
  (∀ s : State, s.inflight = none →
    exec .nop s =
      .next { s with status := { s.status with done := true, err := false, errcode := 0#4, lastop := 0#4 } })

/-- 45_commands.md R118, 10_state.md R25: with non-zero multiples of 16 within the limits, `FRAME_INIT` begins a frame: the
geometry, `NEXT_MB = 0`, `FRAME_VALID = 1`, the result registers 0; everything else, every memory included, is unchanged. -/
def Obligations.FrameInitStartsFrame : Prop :=
  ∀ (s : State) (l : Latch) (c r : Nat), s.inflight = some l → s.frameW.toNat = 16 * c → s.frameH.toNat = 16 * r →
    0 < c → 0 < r → 16 * c ≤ 1920 → 16 * r ≤ 1088 →
    ∃ t, exec .frameInit s = .next t ∧ t.mbCols.toNat = c ∧ t.mbRows.toNat = r ∧ t.mbCount.toNat = c * r ∧
      (∀ k : Fin 16, t.i4cost[k] = 0#32) ∧ t.statusWord.getLsbD 9 = false ∧
      t =
        { s with
          mbCols := t.mbCols, mbRows := t.mbRows, mbCount := t.mbCount, nextMb := 0#16, avail := 0#32, result := 0#32,
          i4bestLo := 0#32, i4bestHi := 0#32, costI16 := 0#32, costI4 := 0#32, costLuma := 0#32, costChroma := 0#32,
          costCb := 0#32, costCr := 0#32, probeSad := 0#32, probeStat := 0#32, i4cost := t.i4cost, inflight := none,
          status := { s.status with done := true, frameValid := true } }

/-- 45_commands.md R118, 60_exceptions.md R124, R126: a size of 0 or no multiple of 16 ends `FRAME_INIT` with `ERR_DIM`, and
otherwise one above the limits ends it with `ERR_RANGE`; nothing else changes. -/
def Obligations.FrameInitErrors : Prop :=
  ∀ (s : State) (l : Latch), s.inflight = some l →
    let bad := s.frameW.toNat = 0 ∨ s.frameH.toNat = 0 ∨ s.frameW.toNat % 16 ≠ 0 ∨ s.frameH.toNat % 16 ≠ 0
    let large := 1920 < s.frameW.toNat ∨ 1088 < s.frameH.toNat
    (bad → exec .frameInit s =
      .next { s with inflight := none, status := { s.status with err := true, errcode := 2#4 } }) ∧
    (¬bad → large → exec .frameInit s =
      .next { s with inflight := none, status := { s.status with err := true, errcode := 3#4 } })

/-! ### The checks -/

/-- 45_commands.md R116, 60_exceptions.md R124, R126: `PREDICT_MB` and every probe fail with `ERR_NOFRAME`, then `ERR_IDX`, then
`ERR_ORDER`, and change nothing else. -/
def Obligations.MacroblockChecks : Prop :=
  ∀ (s : State) (l : Latch) (i : Instr), s.inflight = some l → needsMb i = true →
    (s.status.frameValid = false → exec i s =
      .next { s with inflight := none, status := { s.status with err := true, errcode := 4#4 } }) ∧
    (s.status.frameValid = true → s.mbCount.toNat ≤ l.idx.toNat → exec i s =
      .next { s with inflight := none, status := { s.status with err := true, errcode := 5#4 } }) ∧
    (s.status.frameValid = true → l.idx.toNat < s.mbCount.toNat → l.idx ≠ s.nextMb → exec i s =
      .next { s with inflight := none, status := { s.status with err := true, errcode := 6#4 } })

/-- 60_exceptions.md R125: command errors are precise: a command that ends with `ERR = 1` has changed nothing but `STATUS`. -/
def Obligations.CommandErrorsArePrecise : Prop :=
  ∀ (s t : State) (l : Latch) (i : Instr), s.statusOk → s.inflight = some l → exec i s = .next t → t.status.err = true →
    t = { s with inflight := none, status := { s.status with err := true, errcode := t.status.errcode } } ∧
      1 ≤ t.status.errcode.toNat ∧ t.status.errcode.toNat ≤ 6

/-! ### PREDICT_MB -/

/-- 45_commands.md R119, 44_selection.md R112, R113: a `PREDICT_MB` that passes its checks completes; the result registers report
the evaluation, `NEXT_MB` advances by 1, and no register but these changes. -/
def Obligations.PredictMbReports : Prop :=
  ∀ (s : State) (l : Latch), s.readyFor l →
    let n := l.idx.toNat
    let e := s.evaluate l.bsrc n
    let i4Wins := costOf4 e.i4 < e.i16.cost
    let costL := if i4Wins then costOf4 e.i4 else e.i16.cost
    let costC := e.c.costCb + e.c.costCr
    ∃ t, exec .predictMb s = .next t ∧
      t =
        { s with
          inflight := none
          status := { s.status with done := true }
          mem := t.mem
          avail := availWord (mbAvail s.mbCols.toNat n)
          result := BitVec.ofNat 32 (1 + (if i4Wins then 0 else 2) + (if 2000 < costL ∨ 1000 < costC then 4 else 0) +
            16 * e.i16.mode + 256 * e.c.mode)
          i4bestLo := t.i4bestLo
          i4bestHi := t.i4bestHi
          i4cost := t.i4cost
          costI16 := BitVec.ofNat 32 e.i16.cost
          costI4 := BitVec.ofNat 32 (costOf4 e.i4)
          costLuma := BitVec.ofNat 32 costL
          costChroma := BitVec.ofNat 32 costC
          costCb := BitVec.ofNat 32 e.c.costCb
          costCr := BitVec.ofNat 32 e.c.costCr
          nextMb := s.nextMb + 1#16 } ∧
      (∀ k : Fin 16, ∃ c, e.i4[k.val]? = some c ∧ t.i4cost[k].toNat = c.cost ∧
        (if k.val < 8 then t.i4bestLo.extractLsb' (4 * k.val) 4 else t.i4bestHi.extractLsb' (4 * (k.val - 8)) 4).toNat =
          c.mode)

/-- 41_luma4x4.md R91, 44_selection.md R106, R108, R109: the commit writes PRED with the winning luma prediction, the 16x16 choice's or, when 4x4 is
strictly cheaper, the sixteen 4x4 choices' in their places, and with the chosen chroma prediction; and WORK with the residual or,
under PCM, with the raw samples. -/
def Obligations.PredictMbWritesPredAndWork : Prop :=
  ∀ (s t : State) (l : Latch), s.geometryOk → s.mem.wf → s.readyFor l → exec .predictMb s = .next t →
    let e := s.evaluate l.bsrc l.idx.toNat
    (¬costOf4 e.i4 < e.i16.cost → ∀ i, i < 256 → t.mem.readByte (0x003000 + i) = e.i16.pred.getD i 0#8) ∧
    (costOf4 e.i4 < e.i16.cost → ∀ k x y, k < 16 → x < 4 → y < 4 →
      ∃ c, e.i4[k]? = some c ∧
        t.mem.readByte (0x003000 + 16 * (4 * blkY k + y) + (4 * blkX k + x)) = c.pred.getD (4 * y + x) 0#8) ∧
    (∀ i, i < 64 → t.mem.readByte (0x003100 + i) = e.c.predCb.getD i 0#8) ∧
    (∀ i, i < 64 → t.mem.readByte (0x003140 + i) = e.c.predCr.getD i 0#8) ∧
    (∀ i, i < 384 →
      (t.mem.readByte (0x002000 + 2 * i + 1) ++ t.mem.readByte (0x002000 + 2 * i) : BitVec 16) =
        if t.result.getLsbD 2 then (s.mem.readByte (0x001000 + i)).setWidth 16
        else (s.mem.readByte (0x001000 + i)).setWidth 16 - (t.mem.readByte (0x003000 + i)).setWidth 16)

/-- 44_selection.md R110: the commit writes the DNT samples of its own macroblock, the source samples under PCM or `BSRC = 0` and
the prediction otherwise. -/
def Obligations.PredictMbWritesDnt : Prop :=
  ∀ (s t : State) (l : Latch), s.geometryOk → s.mem.wf → s.readyFor l → exec .predictMb s = .next t →
    let n := l.idx.toNat
    let C := s.mbCols.toNat
    let raw := t.result.getLsbD 2 = true ∨ l.bsrc = false
    (∀ x y, x < 16 → y < 16 →
      t.mem.readByte (0x200000 + (16 * (n / C) + y) * (16 * C) + (16 * (n % C) + x)) =
        if raw then s.mem.readByte (0x001000 + 16 * y + x) else t.mem.readByte (0x003000 + 16 * y + x)) ∧
    (∀ x y, x < 8 → y < 8 →
      t.mem.readByte (0x400000 + (8 * (n / C) + y) * (8 * C) + (8 * (n % C) + x)) =
        if raw then s.mem.readByte (0x001100 + 8 * y + x) else t.mem.readByte (0x003100 + 8 * y + x)) ∧
    (∀ x y, x < 8 → y < 8 →
      t.mem.readByte (0x480000 + (8 * (n / C) + y) * (8 * C) + (8 * (n % C) + x)) =
        if raw then s.mem.readByte (0x001140 + 8 * y + x) else t.mem.readByte (0x003140 + 8 * y + x))

/-- 44_selection.md R111: record `n` of the mode store after a commit, its word 0 in the fields of `RESULT`, its 4x4 modes those of
`I4BEST`, with 0xF in the fields of the family that lost. -/
def Obligations.PredictMbWritesModeRecord : Prop :=
  ∀ (s t : State) (l : Latch), s.geometryOk → s.mem.wf → s.readyFor l → exec .predictMb s = .next t →
    let at32 := fun a : Nat =>
      (t.mem.readByte (a + 3) ++ t.mem.readByte (a + 2) ++ t.mem.readByte (a + 1) ++ t.mem.readByte a : BitVec 32)
    let rec0 := 0x100000 + 16 * l.idx.toNat
    let isI16 := t.result.getLsbD 1
    at32 rec0 = (if isI16 then t.result else t.result ||| 0x000000F0#32) ∧
    at32 (rec0 + 4) = (if isI16 then 0xFFFFFFFF#32 else t.i4bestLo) ∧
    at32 (rec0 + 8) = (if isI16 then 0xFFFFFFFF#32 else t.i4bestHi) ∧
    at32 (rec0 + 12) = 0#32

/-- 44_selection.md R108 to R111, 10_state.md R37: a commit writes no byte but those of PRED, WORK, record `n` and the DNT samples of
macroblock `n`; SRC and PROBE_PRED among them are unchanged. -/
def Obligations.PredictMbWritesNothingElse : Prop :=
  ∀ (s t : State) (l : Latch) (a : Nat), s.readyFor l → exec .predictMb s = .next t →
    let n := l.idx.toNat
    let C := s.mbCols.toNat
    ¬(0x003000 ≤ a ∧ a < 0x003180) → ¬(0x002000 ≤ a ∧ a < 0x002300) →
    ¬(0x100000 + 16 * n ≤ a ∧ a < 0x100000 + 16 * n + 16) →
    (∀ x y, x < 16 → y < 16 → a ≠ 0x200000 + (16 * (n / C) + y) * (16 * C) + (16 * (n % C) + x)) →
    (∀ x y, x < 8 → y < 8 → a ≠ 0x400000 + (8 * (n / C) + y) * (8 * C) + (8 * (n % C) + x)) →
    (∀ x y, x < 8 → y < 8 → a ≠ 0x480000 + (8 * (n / C) + y) * (8 * C) + (8 * (n % C) + x)) →
    t.mem.readByte a = s.mem.readByte a

/-! ### PROBE -/

/-- 45_commands.md R120, R121: each of the nine 4x4 probes on each block completes: `PROBE_PRED[0..15]` is the mode's prediction on
the block's Predictor after the chain of the blocks before it, `PROBE_SAD`, `PROBE_STAT` and `AVAIL` report it, and no other
register and no other byte changes. -/
def Obligations.Probe4x4Completes : Prop :=
  ∀ (s : State) (l : Latch) (m : I4Mode) (k : Nat), s.mem.wf → s.readyFor l → k < 16 →
    let n := l.idx.toNat
    let p := s.predictor4 n (intraBlocks l.bsrc s.srcY (s.i4Chain l.bsrc n k)) k
    ∃ t, exec (m.probe k) s = .next t ∧
      t =
        { s with
          inflight := none
          status := { s.status with done := true }
          mem := t.mem
          avail := availWord (mbAvail s.mbCols.toNat n)
          probeSad := BitVec.ofNat 32 (sad (m.block p) (subBlock s.srcY k))
          probeStat := BitVec.ofNat 32 (1 + (if m.legal p.av then 2 else 0) + 256 * m.num + 4096 * k) } ∧
      (∀ i, i < 16 → t.mem.readByte (0x005000 + i) = BitVec.ofInt 8 (m.value p (i % 4 : Nat) (i / 4 : Nat))) ∧
      (∀ a, a < 0x005000 ∨ 0x005010 ≤ a → t.mem.readByte a = s.mem.readByte a)

/-- 45_commands.md R120, R122: each of the four 16x16 probes completes: `PROBE_PRED[0..255]` is the mode's prediction on the 16x16
Predictor, `PROBE_SAD`, `PROBE_STAT` and `AVAIL` report it, and no other register and no other byte changes. -/
def Obligations.Probe16x16Completes : Prop :=
  ∀ (s : State) (l : Latch) (m : I16Mode), s.mem.wf → s.readyFor l →
    let n := l.idx.toNat
    let p := s.predictor16 n
    ∃ t, exec m.probe s = .next t ∧
      t =
        { s with
          inflight := none
          status := { s.status with done := true }
          mem := t.mem
          avail := availWord (mbAvail s.mbCols.toNat n)
          probeSad := BitVec.ofNat 32 (sad (m.block p) s.srcY)
          probeStat := BitVec.ofNat 32 (1 + (if m.legal p.av then 2 else 0) + 16 + 256 * m.num) } ∧
      (∀ i, i < 256 → t.mem.readByte (0x005000 + i) = BitVec.ofInt 8 (m.value p (i % 16 : Nat) (i / 16 : Nat))) ∧
      (∀ a, a < 0x005000 ∨ 0x005100 ≤ a → t.mem.readByte a = s.mem.readByte a)

/-- 45_commands.md R120, R123: each of the four chroma probes completes: `PROBE_PRED[256..319]` and `[320..383]` are the mode's
predictions of Cb and Cr, `PROBE_SAD` is the sum of both SADs, `PROBE_STAT` and `AVAIL` report it, and no other register and no
other byte changes. -/
def Obligations.ProbeChromaCompletes : Prop :=
  ∀ (s : State) (l : Latch) (m : CMode), s.mem.wf → s.readyFor l →
    let n := l.idx.toNat
    let pb := s.predictorC 0x400000 n
    let pr := s.predictorC 0x480000 n
    ∃ t, exec m.probe s = .next t ∧
      t =
        { s with
          inflight := none
          status := { s.status with done := true }
          mem := t.mem
          avail := availWord (mbAvail s.mbCols.toNat n)
          probeSad := BitVec.ofNat 32 (sad (m.block pb) s.srcCb + sad (m.block pr) s.srcCr)
          probeStat := BitVec.ofNat 32 (1 + (if m.legal pb.av then 2 else 0) + 32 + 256 * m.num) } ∧
      (∀ i, i < 64 →
        t.mem.readByte (0x005100 + i) = BitVec.ofInt 8 (m.value pb (i % 8 : Nat) (i / 8 : Nat)) ∧
        t.mem.readByte (0x005140 + i) = BitVec.ofInt 8 (m.value pr (i % 8 : Nat) (i / 8 : Nat))) ∧
      (∀ a, a < 0x005100 ∨ 0x005180 ≤ a → t.mem.readByte a = s.mem.readByte a)

/-- 45_commands.md R121: a 4x4 probe and the `PREDICT_MB` of the same macroblock with the same inputs agree: a legal mode's
`PROBE_SAD` is never below the block's `I4COST`, and the chosen mode's equals it. -/
def Obligations.Probe4x4AgreesWithPredict : Prop :=
  ∀ (s t u : State) (l : Latch) (m : I4Mode) (k : Fin 16), s.readyFor l →
    exec (m.probe k.val) s = .next t → exec .predictMb s = .next u →
    (t.probeStat.getLsbD 1 = true → u.i4cost[k].toNat ≤ t.probeSad.toNat) ∧
    ((if k.val < 8 then u.i4bestLo.extractLsb' (4 * k.val) 4 else u.i4bestHi.extractLsb' (4 * (k.val - 8)) 4).toNat = m.num →
      t.probeStat.getLsbD 1 = true ∧ t.probeSad = u.i4cost[k])

/-- 45_commands.md R122, R123: the same for the 16x16 probes against `COST_I16` and the chroma probes against `COST_CHROMA`. -/
def Obligations.WholeBlockProbesAgreeWithPredict : Prop :=
  ∀ (s u : State) (l : Latch), s.readyFor l → exec .predictMb s = .next u →
    (∀ (m : I16Mode) (t : State), exec m.probe s = .next t →
      (t.probeStat.getLsbD 1 = true → u.costI16.toNat ≤ t.probeSad.toNat) ∧
      ((u.result.extractLsb' 4 4).toNat = m.num → t.probeStat.getLsbD 1 = true ∧ t.probeSad = u.costI16)) ∧
    (∀ (m : CMode) (t : State), exec m.probe s = .next t →
      (t.probeStat.getLsbD 1 = true → u.costChroma.toNat ≤ t.probeSad.toNat) ∧
      ((u.result.extractLsb' 8 4).toNat = m.num → t.probeStat.getLsbD 1 = true ∧ t.probeSad = u.costChroma))

/-! ### Selection -/

/-- 41_luma4x4.md R90, 42_luma16x16.md R97, 43_chroma8x8.md R103 (by `argmin_first`, 44_selection.md R105): each search chooses a
legal mode with that mode's prediction and cost, no legal mode is cheaper, and every legal mode with a lower number is dearer. The
chroma search chooses one mode for both planes, on the sum of their SADs. -/
def Obligations.SelectionsPickFirstCheapestLegal : Prop :=
  (∀ (p : Predictor) (src : List Byte),
    ∃ m : I4Mode, m.legal p.av = true ∧
      selectI4 p src = { mode := m.num, cost := sad (m.block p) src, pred := m.block p } ∧
      ∀ m' : I4Mode, m'.legal p.av = true →
        sad (m.block p) src ≤ sad (m'.block p) src ∧ (m'.num < m.num → sad (m.block p) src < sad (m'.block p) src)) ∧
  (∀ (p : Predictor) (src : List Byte),
    ∃ m : I16Mode, m.legal p.av = true ∧
      selectI16 p src = { mode := m.num, cost := sad (m.block p) src, pred := m.block p } ∧
      ∀ m' : I16Mode, m'.legal p.av = true →
        sad (m.block p) src ≤ sad (m'.block p) src ∧ (m'.num < m.num → sad (m.block p) src < sad (m'.block p) src)) ∧
  (∀ (pb pr : Predictor) (srcCb srcCr : List Byte),
    ∃ m : CMode, m.legal pb.av = true ∧
      selectC pb pr srcCb srcCr =
        { mode := m.num, costCb := sad (m.block pb) srcCb, costCr := sad (m.block pr) srcCr, predCb := m.block pb,
          predCr := m.block pr } ∧
      ∀ m' : CMode, m'.legal pb.av = true →
        sad (m.block pb) srcCb + sad (m.block pr) srcCr ≤ sad (m'.block pb) srcCb + sad (m'.block pr) srcCr ∧
        (m'.num < m.num →
          sad (m.block pb) srcCb + sad (m.block pr) srcCr < sad (m'.block pb) srcCb + sad (m'.block pr) srcCr))

/-- 41_luma4x4.md R91: the 4x4 pass selects the sixteen blocks in order, each on the Predictor that sees the blocks before it. -/
def Obligations.I4PassSelectsEachBlock : Prop :=
  ∀ (s : State) (bsrc : Bool) (n k : Nat), k < 16 →
    (s.i4Pass bsrc n).length = 16 ∧
    (s.i4Pass bsrc n)[k]? =
      some (selectI4 (s.predictor4 n (intraBlocks bsrc s.srcY ((s.i4Pass bsrc n).take k)) k) (subBlock s.srcY k))

/-- 40_neighbours.md R69, R75, R76: inside the macroblock, a sample of a block already visited is its source sample under
`BSRC = 0` and its chosen prediction under `BSRC = 1`; outside, whatever blocks are visited, it is the DNT's. -/
def Obligations.LumaSamplesOfVisitedBlocks : Prop :=
  ∀ (s : State) (n : Nat),
    let C := s.mbCols.toNat
    let mx := 16 * (n % C)
    let my := 16 * (n / C)
    (∀ (bsrc : Bool) (k x y : Nat), k ≤ 16 → x < 16 → y < 16 → blkIdx (x / 4) (y / 4) < k →
      s.lumaAt n (intraBlocks bsrc s.srcY (s.i4Chain bsrc n k)) (mx + x) (my + y) =
        if bsrc then
          sampleOf (((s.i4Pass bsrc n).map Candidate.pred).getD (blkIdx (x / 4) (y / 4)) [] |>.getD (4 * (y % 4) + x % 4) 0#8)
        else sampleOf (s.mem.readByte (0x001000 + 16 * y + x))) ∧
    (∀ (intra : List (List Byte)) (X Y : Nat), ¬(mx ≤ X ∧ X < mx + 16 ∧ my ≤ Y ∧ Y < my + 16) →
      s.lumaAt n intra X Y = sampleOf (s.mem.readByte (0x200000 + Y * (16 * C) + X)))

/-- 44_selection.md R104: SAD is symmetric, is 0 exactly when the blocks are equal, and is at most 255 a sample. -/
def Obligations.SadIsADistance : Prop :=
  ∀ a b : List Byte, a.length = b.length →
    sad a b = sad b a ∧ (sad a b = 0 ↔ a = b) ∧ sad a b ≤ 255 * a.length

/-! ### Modes -/

/-- 41_luma4x4.md, the note before R80: on samples in 0..255 every value of a 4x4 mode lies in 0..255 and needs no clipping. -/
def Obligations.I4ValuesNeedNoClipping : Prop :=
  ∀ (m : I4Mode) (p : Predictor) (x y : Nat),
    0 ≤ p.corner ∧ p.corner ≤ 255 → (∀ v ∈ p.up, 0 ≤ v ∧ v ≤ 255) → (∀ v ∈ p.left, 0 ≤ v ∧ v ≤ 255) →
      0 ≤ m.value p x y ∧ m.value p x y ≤ 255

/-- 95_test_vectors.md V5: on a border of equal samples every mode of every family predicts that sample everywhere, when the
borders it needs are available. -/
def Obligations.ConstantBorderIsPredicted : Prop :=
  ∀ (p : Predictor) (v : Int) (x y : Nat), 0 ≤ v → v ≤ 255 → p.corner = v → (∀ u ∈ p.up, u = v) → (∀ u ∈ p.left, u = v) →
    p.av.up = true → p.av.left = true →
    (p.up.length = 8 → p.left.length = 4 → x < 4 → y < 4 → ∀ m : I4Mode, m.value p x y = v) ∧
    (p.up.length = 16 → p.left.length = 16 → x < 16 → y < 16 → ∀ m : I16Mode, m.value p x y = v) ∧
    (p.up.length = 8 → p.left.length = 8 → x < 8 → y < 8 → ∀ m : CMode, m.value p x y = v)

/-- 41_luma4x4.md R85 to R87: Diagonal_Down_Right is its own mirror image, and Horizontal_Down is Vertical_Right mirrored. -/
def Obligations.DiagonalModesMirror : Prop :=
  ∀ (p : Predictor) (x y : Nat), x < 4 → y < 4 →
    i4Hd p x y = i4Vr p.transpose y x ∧ i4Ddr p x y = i4Ddr p.transpose y x ∧ i4H p x y = i4V p.transpose y x

/-! ### Neighbours -/

/-- 40_neighbours.md R70, R72: every neighbour reported available is the macroblock next to `n` in its direction, and the four that
prediction reads come before `n` in raster order. -/
def Obligations.AvailableNeighboursAreEarlier : Prop :=
  ∀ c n : Nat, 0 < c →
    let av := mbAvail c n
    (av.up = true ↔ 0 < n / c) ∧ (av.left = true ↔ 0 < n % c) ∧ (av.right = true ↔ n % c + 1 < c) ∧
    (av.upleft = true ↔ av.up = true ∧ av.left = true) ∧ (av.upright = true ↔ av.up = true ∧ av.right = true) ∧
    (av.up = true → n - c < n ∧ (n - c) % c = n % c ∧ (n - c) / c + 1 = n / c) ∧
    (av.left = true → n - 1 < n ∧ (n - 1) % c + 1 = n % c ∧ (n - 1) / c = n / c) ∧
    (av.upleft = true → n - c - 1 < n ∧ (n - c - 1) % c + 1 = n % c ∧ (n - c - 1) / c + 1 = n / c) ∧
    (av.upright = true → n - c + 1 < n ∧ (n - c + 1) % c = n % c + 1 ∧ (n - c + 1) / c + 1 = n / c) ∧
    (av.right = true → (n + 1) % c = n % c + 1 ∧ (n + 1) / c = n / c)

/-- 40_neighbours.md R73, R74: the block order, its inverse, and the table of `UPRIGHT(k)`. -/
def Obligations.BlockOrderAndUprightTable : Prop :=
  (List.range 16).map (fun k => (blkX k, blkY k)) =
    [(0, 0), (1, 0), (0, 1), (1, 1), (2, 0), (3, 0), (2, 1), (3, 1), (0, 2), (1, 2), (0, 3), (1, 3), (2, 2), (3, 2), (2, 3),
      (3, 3)] ∧
  (∀ k, k < 16 → blkIdx (blkX k) (blkY k) = k) ∧
  ∀ av : MbAvail, (List.range 16).map (fun k => (blkAvail av k).upright) =
    [av.up, av.up, true, false, av.up, av.upright, true, false, true, true, true, false, true, false, true, false]

/-- 40_neighbours.md R69, R71, R74, R77 to R79: every sample of the three Predictors: the neighbouring sample one row above, one
column to the left or at the corner where that border is available, and 128 where it is not, the up-right border of a 4x4 block
being its last up sample where only the up border is available; and when the up, left and corner borders of a 4x4 block are
available. -/
def Obligations.BordersAreNeighbourSamplesOrDefault : Prop :=
  ∀ (s : State) (n : Nat),
    let C := s.mbCols.toNat
    let av := mbAvail C n
    (∀ (intra : List (List Byte)) (k i : Nat),
      let b := blkAvail av k
      let x := 16 * (n % C) + 4 * blkX k
      let y := 16 * (n / C) + 4 * blkY k
      let p := s.predictor4 n intra k
      p.av = b ∧
      (b.up = true ↔ 0 < blkY k ∨ av.up = true) ∧ (b.left = true ↔ 0 < blkX k ∨ av.left = true) ∧
      (b.upleft = true ↔
        0 < blkX k ∧ 0 < blkY k ∨ blkX k = 0 ∧ 0 < blkY k ∧ av.left = true ∨ 0 < blkX k ∧ blkY k = 0 ∧ av.up = true ∨
          blkX k = 0 ∧ blkY k = 0 ∧ av.upleft = true) ∧
      (i < 4 → p.top i = if b.up then s.lumaAt n intra (x + i) (y - 1) else 128) ∧
      (4 ≤ i → i < 8 → p.top i = if b.upright then s.lumaAt n intra (x + i) (y - 1) else if b.up then p.top 3 else 128) ∧
      (i < 4 → p.side i = if b.left then s.lumaAt n intra (x - 1) (y + i) else 128) ∧
      p.corner = if b.upleft then s.lumaAt n intra (x - 1) (y - 1) else 128) ∧
    (∀ i : Nat, i < 16 →
      let x := 16 * (n % C)
      let y := 16 * (n / C)
      let at16 := fun X Y : Nat => sampleOf (s.mem.readByte (0x200000 + Y * (16 * C) + X))
      let p := s.predictor16 n
      p.av = av.toAvail ∧ p.top i = (if av.up then at16 (x + i) (y - 1) else 128) ∧
        p.side i = (if av.left then at16 (x - 1) (y + i) else 128) ∧
        p.corner = if av.upleft then at16 (x - 1) (y - 1) else 128) ∧
    ∀ base i : Nat, base = 0x400000 ∨ base = 0x480000 → i < 8 →
      let x := 8 * (n % C)
      let y := 8 * (n / C)
      let atC := fun X Y : Nat => sampleOf (s.mem.readByte (base + Y * (8 * C) + X))
      let p := s.predictorC base n
      p.av = av.toAvail ∧ p.top i = (if av.up then atC (x + i) (y - 1) else 128) ∧
        p.side i = (if av.left then atC (x - 1) (y + i) else 128) ∧
        p.corner = if av.upleft then atC (x - 1) (y - 1) else 128

/-- 41_luma4x4.md R80, 42_luma16x16.md R92, 43_chroma8x8.md R98 and 90_conflicts.md C4: macroblock 0 has none of the four
neighbours a Predictor reads (it has a right one in a frame of more than one column), and the 16x16 search, the chroma search and
the 4x4 search of block 0 choose DC there. Nothing is said of blocks 1 to 15. -/
def Obligations.FirstMacroblockWholeAndBlockZeroChooseDc : Prop :=
  ∀ (s : State) (bsrc : Bool), (selectI16 (s.predictor16 0) s.srcY).mode = 2 ∧
    (selectC (s.predictorC dntCbBase 0) (s.predictorC dntCrBase 0) s.srcCb s.srcCr).mode = 0 ∧
    ((s.i4Pass bsrc 0).map Candidate.mode).head? = some 2 ∧
    (s.predictor16 0).av = { up := false, left := false, upright := false, upleft := false } ∧
    ∀ c, mbAvail c 0 = { up := false, left := false, upright := false, upleft := false, right := decide (1 < c) }

/-- 70_reset_and_hazards.md R145, 40_neighbours.md R72: what is predicted for macroblock `n` depends on SRC and on the DNT samples
of the macroblocks before `n` alone: a write anywhere else, the DNT of macroblock `n` or later included, has no effect on it. -/
def Obligations.PredictionReadsOnlyEarlierMacroblocks : Prop :=
  ∀ (s : State) (m : Memory) (bsrc : Bool) (n : Nat), s.geometryOk → n < s.mbCount.toNat →
    let C := s.mbCols.toNat
    (∀ i, i < 384 → m.readByte (0x001000 + i) = s.mem.readByte (0x001000 + i)) →
    (∀ X Y, X < 16 * C → Y / 16 * C + X / 16 < n →
      m.readByte (0x200000 + Y * (16 * C) + X) = s.mem.readByte (0x200000 + Y * (16 * C) + X)) →
    (∀ base X Y, base = 0x400000 ∨ base = 0x480000 → X < 8 * C → Y / 8 * C + X / 8 < n →
      m.readByte (base + Y * (8 * C) + X) = s.mem.readByte (base + Y * (8 * C) + X)) →
    State.evaluate { s with mem := m } bsrc n = s.evaluate bsrc n

/-! ### Whole-machine rules -/

/-- 10_state.md R14, R25, R26, 70_reset_and_hazards.md R147: only a reset event, a successful `FRAME_INIT` and a successful
`PREDICT_MB` move `NEXT_MB`, the last one by exactly 1, and only the first two change the geometry. -/
def Obligations.OnlyFrameInitAndPredictMoveTheCursor : Prop :=
  ∀ s t : State, step s = .next t →
    (t.nextMb = s.nextMb ∧ t.mbCols = s.mbCols ∧ t.mbRows = s.mbRows ∧ t.mbCount = s.mbCount) ∨
    (∃ contents rest, s.script = .reset contents :: rest) ∨
    (∃ l, s.inflight = some l ∧ (s.script = [] ∨ ∃ rest, s.script = .engine :: rest) ∧ t.status.done = true ∧
      ((decode l.word = .ok .frameInit ∧ t.nextMb = 0#16) ∨
        (decode l.word = .ok .predictMb ∧ l.idx = s.nextMb ∧ t.nextMb = s.nextMb + 1#16 ∧ t.mbCols = s.mbCols ∧
          t.mbRows = s.mbRows ∧ t.mbCount = s.mbCount)))

/-- 10_state.md R17, R24, R27, R37: the engine never changes SRC, `CTRL`, `MB_IDX`, `FRAME_W`, `FRAME_H` or `OVR`: on its turn, every
one of them is unchanged, whatever the command. -/
def Obligations.EngineNeverWritesItsInputs : Prop :=
  ∀ s t : State, (s.script = [] ∨ ∃ rest, s.script = .engine :: rest) → step s = .next t →
    (∀ a, 0x001000 ≤ a → a < 0x001180 → t.mem.readByte a = s.mem.readByte a) ∧
      t.irqEn = s.irqEn ∧ t.bsrc = s.bsrc ∧ t.mbIdx = s.mbIdx ∧ t.frameW = s.frameW ∧ t.frameH = s.frameH ∧
      t.status.ovr = s.status.ovr ∧ t.status.lastop = s.status.lastop

/-- 10_state.md R22, 60_exceptions.md R128: only a write that would succeed when idle, made while `BUSY = 1`, sets `OVR`. -/
def Obligations.OnlyBusyWritesSetOvr : Prop :=
  ∀ s t : State, step s = .next t → s.status.ovr = false → t.status.ovr = true →
    s.inflight.isSome = true ∧ ∃ n off v rest, s.script = .write n off v :: rest ∧ accessOk true n off.toNat = true

/-! ### Invariants -/

/-- 70_reset_and_hazards.md R138: the reset state meets every invariant, and its registers read as the table says. The memories'
contents at `State.reset` are the model's choice (log 1). -/
def Obligations.ResetMeetsTheInvariants : Prop :=
  State.reset.ok ∧ State.reset.readReg .id = 0x49504501#32 ∧ State.reset.readReg .thrLuma = 2000#32 ∧
    State.reset.readReg .thrChroma = 1000#32 ∧ State.reset.irq = false ∧ State.reset.inflight = none ∧
    ∀ r : Reg, r ≠ .id → r ≠ .thrLuma → r ≠ .thrChroma → State.reset.readReg r = 0#32

/-- Every step keeps the memories in the model's canonical form. The form, and what a byte that no cell lists reads as, are the
model's choice (log 1); the spec gives the bytes alone (20_memory.md R52). -/
def Obligations.StepKeepsMemoryCanonical : Prop :=
  ∀ s t : State, s.memoryCanonical → step s = .next t → t.memoryCanonical

/-- 20_memory.md R52, R53: every byte any step writes lies in a memory of the aperture map. What is said is of stored bytes alone;
what a command may read is the subject of `PredictionReadsOnlyEarlierMacroblocks`. -/
def Obligations.StepWritesOnlyMappedMemory : Prop :=
  ∀ s t : State, s.geometryOk → s.memoryMapped → step s = .next t → t.memoryMapped

/-- 10_state.md R20, R21: `DONE` and `ERR` are never both 1, `ERRCODE` is 0 exactly when `ERR` is 0, and codes 7 to 15 never occur. -/
def Obligations.StepKeepsStatusConsistent : Prop :=
  ∀ s t : State, s.statusOk → step s = .next t → t.statusOk

/-- 10_state.md R25, R26, 45_commands.md R118: the geometry stays consistent and within the limits, and `NEXT_MB` never passes
`MB_COUNT`. -/
def Obligations.StepKeepsGeometry : Prop :=
  ∀ s t : State, s.geometryOk → step s = .next t → t.geometryOk

/-- 20_memory.md R59, 10_state.md R43: what a command in flight has latched cannot be changed under it: a step leaves the latch as
it is or leaves no command in flight, and the latch stays in agreement with `MB_IDX`, `BSRC` and `LASTOP`. -/
def Obligations.StepKeepsLatch : Prop :=
  ∀ s t : State, step s = .next t →
    (∀ l, s.inflight = some l → t.inflight = some l ∨ t.inflight = none) ∧ (s.latchOk → t.latchOk)

/-- 10_state.md R29, R31, R32, R33, R35, 44_selection.md R106, R107: the sixteen `I4COST` sum to `COST_I4`, `COST_CHROMA` is
`COST_CB + COST_CR`, `COST_LUMA` is the winner's cost, every cost stays in its range, and `RESULT` says what they say. -/
def Obligations.StepKeepsCostsConsistent : Prop :=
  ∀ s t : State, s.costsOk → s.resultOk → step s = .next t → t.costsOk ∧ t.resultOk
end

