-- ==== Sys2Proof/Laws/Memory.lean ====
section
/-! SUPPORT. What the one store of the model does: it is read back, it leaves every other byte alone, it keeps the canonical
form, and it lists no offset but those it stores to. -/

namespace Sys2Proof.Machine

@[simp] theorem Memory.readByte_nil (x : Nat) : Memory.readByte [] x = Config.unlistedByte := rfl

theorem Memory.readByte_cons (c : Host.Cell) (m : Memory) (x : Nat) :
    Memory.readByte (c :: m) x = if c.1 = x then c.2 else Memory.readByte m x := rfl

/-- A byte no cell lists reads as the unlisted byte. -/
theorem Memory.readByte_of_unlisted {m : Memory} {x : Nat} (h : ∀ c ∈ m, c.1 ≠ x) :
    m.readByte x = Config.unlistedByte := by
  induction m with
  | nil => rfl
  | cons c m ih =>
    rw [Memory.readByte_cons, if_neg (h c (by simp)), ih (fun d hd => h d (by simp [hd]))]

/-- The tail of a canonical memory is canonical. -/
theorem Memory.wf_tail {c : Host.Cell} {m : Memory} (h : Memory.wf (c :: m)) : m.wf :=
  ⟨(List.pairwise_cons.1 h.1).2, fun d hd => h.2 d (by simp [hd])⟩

/-- Every cell after the first lies above it. -/
theorem Memory.head_lt {c : Host.Cell} {m : Memory} (h : Memory.wf (c :: m)) : ∀ d ∈ m, c.1 < d.1 :=
  (List.pairwise_cons.1 h.1).1

theorem Memory.readByte_consCell_self (a : Nat) (b : Byte) (m : Memory) (h : ∀ c ∈ m, c.1 ≠ a) :
    (Memory.consCell a b m).readByte a = b := by
  unfold Memory.consCell
  split
  · next hb => rw [Memory.readByte_of_unlisted h, hb]
  · simp [Memory.readByte_cons]

theorem Memory.readByte_consCell_other {a x : Nat} (b : Byte) (m : Memory) (h : x ≠ a) :
    (Memory.consCell a b m).readByte x = m.readByte x := by
  unfold Memory.consCell
  split
  · rfl
  · rw [Memory.readByte_cons, if_neg (fun e => h e.symm)]

theorem Memory.mem_consCell {a : Nat} {b : Byte} {m : Memory} {c : Host.Cell} (h : c ∈ Memory.consCell a b m) :
    (c.1 = a ∧ c.2 ≠ Config.unlistedByte) ∨ c ∈ m := by
  unfold Memory.consCell at h
  split at h
  · exact .inr h
  · next hb =>
    rcases List.mem_cons.1 h with rfl | h
    · exact .inl ⟨rfl, hb⟩
    · exact .inr h

/-- Where the cells of a one-byte store come from. -/
theorem Memory.mem_putThen {a : Nat} {b : Byte} {k : Memory → Memory} {m : Memory} {c : Host.Cell}
    (h : c ∈ Memory.putThen a b k m) :
    (c.1 = a ∧ c.2 ≠ Config.unlistedByte) ∨ c ∈ m ∨ ∃ m', m' <:+ m ∧ c ∈ k m' := by
  induction m with
  | nil =>
    rcases Memory.mem_consCell h with h | h
    · exact .inl h
    · exact .inr (.inr ⟨[], List.suffix_refl _, h⟩)
  | cons d m ih =>
    unfold Memory.putThen at h
    split at h
    · rcases List.mem_cons.1 h with rfl | h
      · exact .inr (.inl (by simp))
      · rcases ih h with h | h | ⟨m', hm, h⟩
        · exact .inl h
        · exact .inr (.inl (by simp [h]))
        · exact .inr (.inr ⟨m', hm.trans (List.suffix_cons _ _), h⟩)
    · split at h
      · rcases Memory.mem_consCell h with h | h
        · exact .inl h
        · exact .inr (.inr ⟨m, List.suffix_cons _ _, h⟩)
      · rcases Memory.mem_consCell h with h | h
        · exact .inl h
        · exact .inr (.inr ⟨d :: m, List.suffix_refl _, h⟩)

/-- A store adds only cells of its own run, and none of them holds the unlisted byte. -/
theorem Memory.mem_writeRun {a : Nat} {bs : List Byte} {m : Memory} {c : Host.Cell} (h : c ∈ Memory.writeRun a bs m) :
    (a ≤ c.1 ∧ c.1 < a + bs.length ∧ c.2 ≠ Config.unlistedByte) ∨ c ∈ m := by
  induction bs generalizing a m with
  | nil => exact .inr h
  | cons b bs ih =>
    rcases Memory.mem_putThen h with ⟨h, hb⟩ | h | ⟨m', hm, h⟩
    · exact .inl ⟨by omega, by simp; omega, hb⟩
    · exact .inr h
    · rcases ih h with ⟨h1, h2, hb⟩ | h
      · exact .inl ⟨by omega, by simp; omega, hb⟩
      · exact .inr (hm.subset h)

theorem Memory.wf_suffix {m m' : Memory} (h : m.wf) (hm : m' <:+ m) : m'.wf :=
  ⟨h.1.sublist hm.sublist, fun c hc => h.2 c (hm.subset hc)⟩

theorem Memory.wf_consCell {a : Nat} {b : Byte} {m : Memory} (h : m.wf) (ha : ∀ c ∈ m, a < c.1) :
    (Memory.consCell a b m).wf := by
  unfold Memory.consCell
  split
  · exact h
  · next hb =>
    exact ⟨List.pairwise_cons.2 ⟨ha, h.1⟩, fun c hc => by
      rcases List.mem_cons.1 hc with rfl | hc
      · exact hb
      · exact h.2 c hc⟩

theorem Memory.wf_putThen {a : Nat} {b : Byte} {k : Memory → Memory} {m : Memory} (h : m.wf)
    (hk : ∀ m', m' <:+ m → (k m').wf) (hm : ∀ m', m' <:+ m → ∀ c ∈ k m', c ∈ m' ∨ a < c.1) :
    (Memory.putThen a b k m).wf := by
  induction m with
  | nil =>
    refine Memory.wf_consCell (hk [] (List.suffix_refl _)) fun c hc => ?_
    rcases hm [] (List.suffix_refl _) c hc with h | h
    · simp at h
    · exact h
  | cons d m ih =>
    have up : ∀ m', m' <:+ m → m' <:+ d :: m := fun m' h => h.trans (List.suffix_cons _ _)
    have hd := Memory.head_lt h
    unfold Memory.putThen
    split
    · next hlt =>
      have hrec := ih (Memory.wf_tail h) (fun m' h' => hk m' (up m' h')) (fun m' h' => hm m' (up m' h'))
      refine ⟨List.pairwise_cons.2 ⟨fun c hc => ?_, hrec.1⟩, fun c hc => ?_⟩
      · rcases Memory.mem_putThen hc with ⟨h, -⟩ | hc | ⟨m', h', hc⟩
        · omega
        · exact hd c hc
        · rcases hm m' (up m' h') c hc with hc | hc
          · exact hd c (h'.subset hc)
          · omega
      · rcases List.mem_cons.1 hc with rfl | hc
        · exact h.2 c (by simp)
        · exact hrec.2 c hc
    · split
      · next heq =>
        refine Memory.wf_consCell (hk m (List.suffix_cons _ _)) fun c hc => ?_
        rcases hm m (List.suffix_cons _ _) c hc with hc | hc
        · have := hd c hc; omega
        · exact hc
      · refine Memory.wf_consCell (hk _ (List.suffix_refl _)) fun c hc => ?_
        rcases hm _ (List.suffix_refl _) c hc with hc | hc
        · rcases List.mem_cons.1 hc with rfl | hc
          · omega
          · have := hd c hc; omega
        · exact hc

/-- Every store keeps the canonical form. -/
theorem Memory.wf_writeRun {a : Nat} {bs : List Byte} {m : Memory} (h : m.wf) : (Memory.writeRun a bs m).wf := by
  induction bs generalizing a m with
  | nil => exact h
  | cons b bs ih =>
    refine Memory.wf_putThen h (fun m' hm => ih (Memory.wf_suffix h hm)) fun m' _ c hc => ?_
    rcases Memory.mem_writeRun hc with ⟨h, -⟩ | h
    · exact .inr (by omega)
    · exact .inl h

theorem Memory.readByte_putThen_other {a x : Nat} {b : Byte} {k : Memory → Memory} {m : Memory} (hx : x ≠ a)
    (hk : ∀ m' : Memory, (k m').readByte x = m'.readByte x) : (Memory.putThen a b k m).readByte x = m.readByte x := by
  induction m with
  | nil => rw [Memory.putThen, Memory.readByte_consCell_other _ _ hx, hk]
  | cons d m ih =>
    unfold Memory.putThen
    split
    · rw [Memory.readByte_cons, Memory.readByte_cons, ih]
    · split
      · next h => rw [Memory.readByte_consCell_other _ _ hx, hk, Memory.readByte_cons, if_neg (by omega)]
      · rw [Memory.readByte_consCell_other _ _ hx, hk]

/-- A store leaves every byte outside its run alone. -/
theorem Memory.readByte_writeRun_other {a x : Nat} {bs : List Byte} {m : Memory} (hx : x < a ∨ a + bs.length ≤ x) :
    (Memory.writeRun a bs m).readByte x = m.readByte x := by
  induction bs generalizing a m with
  | nil => rfl
  | cons b bs ih =>
    simp only [List.length_cons] at hx
    exact Memory.readByte_putThen_other (by omega) fun m' => ih (by omega)

theorem Memory.readByte_putThen_self {a : Nat} {b : Byte} {k : Memory → Memory} {m : Memory} (h : m.wf)
    (hm : ∀ m', m' <:+ m → ∀ c ∈ k m', c ∈ m' ∨ a < c.1) : (Memory.putThen a b k m).readByte a = b := by
  induction m with
  | nil =>
    refine Memory.readByte_consCell_self _ _ _ fun c hc => ?_
    rcases hm [] (List.suffix_refl _) c hc with h | h
    · simp at h
    · omega
  | cons d m ih =>
    have hd := Memory.head_lt h
    unfold Memory.putThen
    split
    · next hlt =>
      rw [Memory.readByte_cons, if_neg (by omega)]
      exact ih (Memory.wf_tail h) fun m' h' => hm m' (h'.trans (List.suffix_cons _ _))
    · split
      · next heq =>
        refine Memory.readByte_consCell_self _ _ _ fun c hc => ?_
        rcases hm m (List.suffix_cons _ _) c hc with hc | hc
        · have := hd c hc; omega
        · omega
      · refine Memory.readByte_consCell_self _ _ _ fun c hc => ?_
        rcases hm _ (List.suffix_refl _) c hc with hc | hc
        · rcases List.mem_cons.1 hc with rfl | hc
          · omega
          · have := hd c hc; omega
        · omega

theorem Memory.readByte_putThen_above {a x : Nat} {b v : Byte} {k : Memory → Memory} {m : Memory} (hx : a < x) (h : m.wf)
    (hk : ∀ m' : Memory, m'.wf → (k m').readByte x = v) : (Memory.putThen a b k m).readByte x = v := by
  induction m with
  | nil => rw [Memory.putThen, Memory.readByte_consCell_other _ _ (by omega), hk _ h]
  | cons d m ih =>
    unfold Memory.putThen
    split
    · rw [Memory.readByte_cons, if_neg (by omega), ih (Memory.wf_tail h)]
    · split
      · rw [Memory.readByte_consCell_other _ _ (by omega), hk _ (Memory.wf_tail h)]
      · rw [Memory.readByte_consCell_other _ _ (by omega), hk _ h]

/-- A store is read back. -/
theorem Memory.readByte_writeRun_self {a i : Nat} {bs : List Byte} {m : Memory} (h : m.wf) (hi : i < bs.length) :
    (Memory.writeRun a bs m).readByte (a + i) = bs.getD i 0#8 := by
  induction bs generalizing a i m with
  | nil => simp at hi
  | cons b bs ih =>
    cases i with
    | zero =>
      exact Memory.readByte_putThen_self h fun m' _ c hc => by
        rcases Memory.mem_writeRun hc with ⟨h, -⟩ | h
        · exact .inr (by omega)
        · exact .inl h
    | succ i =>
      simp only [List.length_cons] at hi
      refine Memory.readByte_putThen_above (by omega) h fun m' hm => ?_
      have := ih (a := a + 1) (i := i) hm (by omega)
      rw [show a + (i + 1) = a + 1 + i by omega, this]
      simp

/-! ### Runs of reads -/

@[simp] theorem Memory.length_readRun (m : Memory) (a len : Nat) : (m.readRun a len).length = len := by
  simp [Memory.readRun]

theorem Memory.getD_readRun (m : Memory) {a len i : Nat} (hi : i < len) (d : Byte) :
    (m.readRun a len).getD i d = m.readByte (a + i) := by
  simp [Memory.readRun, List.getD, hi]

theorem Memory.readRun_congr {m m' : Memory} {a len : Nat} (h : ∀ i, i < len → m.readByte (a + i) = m'.readByte (a + i)) :
    m.readRun a len = m'.readRun a len := by
  apply List.map_congr_left
  intro i hi
  exact h i (by simpa using hi)

/-! ### Rows -/

theorem length_row (bs : List Byte) {n y : Nat} (hb : bs.length = n * n) (hy : y < n) :
    ((bs.drop (n * y)).take n).length = n := by
  have : n * y + n ≤ n * n := by nlinarith
  simp [hb]; omega

/-- The rows of a block, stored one after the other: the first `k` of them. -/
theorem Memory.rows_induction {P : Nat → Memory → Prop} {a stride n : Nat} {bs : List Byte} {m : Memory} (h0 : P 0 m)
    (hs : ∀ y m', y < n → P y m' → P (y + 1) (Memory.writeRun (a + y * stride) ((bs.drop (n * y)).take n) m')) :
    P n (Memory.writeRows a stride n bs m) := by
  suffices h : ∀ k, k ≤ n →
      P k ((List.range k).foldl (fun m y => Memory.writeRun (a + y * stride) ((bs.drop (n * y)).take n) m) m) from
    h n le_rfl
  intro k hk
  induction k with
  | zero => exact h0
  | succ k ih =>
    rw [List.range_succ, List.foldl_append]
    exact hs k _ (by omega) (ih (by omega))

theorem Memory.wf_writeRows {a stride n : Nat} {bs : List Byte} {m : Memory} (h : m.wf) :
    (Memory.writeRows a stride n bs m).wf :=
  Memory.rows_induction (P := fun _ m => m.wf) h fun _ _ _ h => Memory.wf_writeRun h

/-- Storing rows leaves every byte alone that is no sample of the block. -/
theorem Memory.readByte_writeRows_other {a stride n x : Nat} {bs : List Byte} {m : Memory}
    (hx : ∀ y, y < n → x < a + y * stride ∨ a + y * stride + n ≤ x) :
    (Memory.writeRows a stride n bs m).readByte x = m.readByte x :=
  Memory.rows_induction (P := fun _ m' => m'.readByte x = m.readByte x) rfl fun y m' hy h => by
    rw [Memory.readByte_writeRun_other, h]
    have hlen : ((bs.drop (n * y)).take n).length ≤ n := by simp
    rcases hx y hy with h | h <;> omega

theorem Memory.mem_writeRows {a stride n : Nat} {bs : List Byte} {m : Memory} {c : Host.Cell}
    (h : c ∈ Memory.writeRows a stride n bs m) :
    (∃ y, y < n ∧ a + y * stride ≤ c.1 ∧ c.1 < a + y * stride + n) ∨ c ∈ m := by
  revert h
  refine Memory.rows_induction
    (P := fun _ m' => c ∈ m' → (∃ y, y < n ∧ a + y * stride ≤ c.1 ∧ c.1 < a + y * stride + n) ∨ c ∈ m) .inr ?_
  intro y m' hy ih h
  rcases Memory.mem_writeRun h with ⟨h1, h2, -⟩ | h
  · have hlen : ((bs.drop (n * y)).take n).length ≤ n := by simp
    exact .inl ⟨y, hy, h1, by omega⟩
  · exact ih h

/-- Rows that do not overlap are read back. -/
theorem Memory.readByte_writeRows_self {a stride n x y : Nat} {bs : List Byte} {m : Memory} (h : m.wf)
    (hb : bs.length = n * n) (hn : n ≤ stride) (hx : x < n) (hy : y < n) :
    (Memory.writeRows a stride n bs m).readByte (a + y * stride + x) = bs.getD (n * y + x) 0#8 := by
  have key : (fun k (m' : Memory) => m'.wf ∧ (y < k → m'.readByte (a + y * stride + x) = bs.getD (n * y + x) 0#8)) n
      (Memory.writeRows a stride n bs m) := by
    refine Memory.rows_induction (P := fun k m' => m'.wf ∧ (y < k → m'.readByte (a + y * stride + x) = bs.getD (n * y + x) 0#8))
      ⟨h, fun h => absurd h (by omega)⟩ ?_
    rintro z m' hz ⟨hw, ih⟩
    refine ⟨Memory.wf_writeRun hw, fun hyz => ?_⟩
    have hlen := length_row bs hb hz
    by_cases heq : y = z
    · subst heq
      rw [Memory.readByte_writeRun_self hw (by omega)]
      simp [List.getD, hx, List.getElem?_drop]
    · rw [Memory.readByte_writeRun_other, ih (by omega)]
      left
      have : (y + 1) * stride ≤ z * stride := Nat.mul_le_mul_right _ (by omega)
      have : (y + 1) * stride = y * stride + stride := by ring
      omega
  exact key.2 hy

/-! ### The memories after a reset event -/

theorem memoryOf_induction {P : Memory → Prop} (h0 : P [])
    (hs : ∀ (m : Memory) (c : Host.Cell), isMemory c.1 = true → P m → P (m.writeRun c.1 [c.2])) (cs : List Host.Cell) :
    P (memoryOf cs) := by
  unfold memoryOf
  generalize ([] : Memory) = m at h0
  induction cs generalizing m with
  | nil => exact h0
  | cons c cs ih =>
    simp only [List.foldl_cons]
    split
    · next h => exact ih _ (hs m c h h0)
    · exact ih _ h0

theorem wf_memoryOf (cs : List Host.Cell) : (memoryOf cs).wf :=
  memoryOf_induction ⟨List.Pairwise.nil, by simp⟩ (fun _ _ _ h => Memory.wf_writeRun h) cs

theorem mapped_memoryOf (cs : List Host.Cell) : ∀ c ∈ memoryOf cs, isMemory c.1 = true :=
  memoryOf_induction (P := fun m => ∀ c ∈ m, isMemory c.1 = true) (by simp)
    (fun m c hc h d hd => by
      rcases Memory.mem_writeRun hd with ⟨h1, h2, -⟩ | hd
      · have : d.1 = c.1 := by simp at h2; omega
        rw [this]; exact hc
      · exact h d hd) cs

/-- A cell above every other one goes to the end. -/
theorem Memory.writeRun_append {m : Memory} {c : Host.Cell} (h : ∀ d ∈ m, d.1 < c.1) (hc : c.2 ≠ Config.unlistedByte) :
    m.writeRun c.1 [c.2] = m ++ [c] := by
  induction m with
  | nil => simp [Memory.writeRun, Memory.putThen, Memory.consCell, hc]
  | cons d m ih =>
    have := ih fun e he => h e (by simp [he])
    simp only [Memory.writeRun] at this
    simp [Memory.writeRun, Memory.putThen, h d (by simp), this]

/-- Contents in canonical form are what the memories hold after the reset event. -/
theorem memoryOf_canonical {cs : List Host.Cell} (h : Memory.wf cs) (hm : ∀ c ∈ cs, isMemory c.1 = true) :
    memoryOf cs = cs := by
  suffices H : ∀ (m : Memory) (cs : List Host.Cell), Memory.wf (m ++ cs) → (∀ c ∈ cs, isMemory c.1 = true) →
      cs.foldl (fun m c => if isMemory c.1 then Memory.writeRun c.1 [c.2] m else m) m = m ++ cs from H [] cs h hm
  intro m cs
  induction cs generalizing m with
  | nil => simp
  | cons c cs ih =>
    intro hw hc
    have hlt : ∀ d ∈ m, d.1 < c.1 := fun d hd => (List.pairwise_append.1 hw.1).2.2 d hd c (by simp)
    simp only [List.foldl_cons, hc c (by simp), if_true]
    rw [Memory.writeRun_append hlt (hw.2 c (by simp)), ih _ (by simpa using hw) fun d hd => hc d (by simp [hd])]
    simp

/-! ### Byte order -/

@[simp] theorem length_leBytes (len v : Nat) : (leBytes len v).length = len := by
  induction len generalizing v with
  | zero => rfl
  | succ len ih => simp [leBytes, ih]

theorem getD_leBytes {len v k : Nat} (hk : k < len) : (leBytes len v).getD k 0#8 = BitVec.ofNat 8 (v / 256 ^ k) := by
  induction len generalizing v k with
  | zero => omega
  | succ len ih =>
    cases k with
    | zero => simp [leBytes]
    | succ k =>
      have := ih (v := v / 256) (k := k) (by omega)
      simp only [leBytes, List.getD_cons_succ, this, Nat.div_div_eq_div_mul, pow_succ, mul_comm]

theorem leValue_lt (bs : List Byte) : leValue bs < 256 ^ bs.length := by
  induction bs with
  | nil => simp [leValue]
  | cons b bs ih =>
    have := b.isLt
    simp only [leValue, List.length_cons, pow_succ]
    omega

theorem leValue_byte {bs : List Byte} {k : Nat} (hk : k < bs.length) :
    leValue bs / 256 ^ k % 256 = (bs.getD k 0#8).toNat := by
  induction bs generalizing k with
  | nil => simp at hk
  | cons b bs ih =>
    have := b.isLt
    cases k with
    | zero => simp [leValue]; omega
    | succ k =>
      have := ih (k := k) (by simpa using hk)
      rw [pow_succ, mul_comm, ← Nat.div_div_eq_div_mul, show leValue (b :: bs) / 256 = leValue bs by simp [leValue]; omega]
      simpa using this

end Sys2Proof.Machine
end

