-- ==== Sys2Proof/Laws/Samples.lean ====
section
/-! SUPPORT. Blocks of samples: their lengths and their elements, the SAD's bounds, and the first minimum. -/

namespace Sys2Proof.Machine

/-! ### Blocks in raster order -/

@[simp] theorem length_raster (n : Nat) (f : Int → Int → Int) : (raster n f).length = n * n := by simp [raster]

theorem getD_raster {n i : Nat} (f : Int → Int → Int) (hi : i < n * n) :
    (raster n f).getD i 0#8 = byteOf (f (i % n : Nat) (i / n : Nat)) := by
  simp [raster, List.getD, hi]

@[simp] theorem length_I4Mode_block (m : I4Mode) (p : Predictor) : (m.block p).length = 16 := by simp [I4Mode.block]

@[simp] theorem length_I16Mode_block (m : I16Mode) (p : Predictor) : (m.block p).length = 256 := by simp [I16Mode.block]

@[simp] theorem length_CMode_block (m : CMode) (p : Predictor) : (m.block p).length = 64 := by simp [CMode.block]

@[simp] theorem length_subBlock (b : List Byte) (k : Nat) : (subBlock b k).length = 16 := by simp [subBlock]

@[simp] theorem length_srcY (s : State) : s.srcY.length = 256 := by simp [State.srcY, Memory.readRun]

@[simp] theorem length_srcCb (s : State) : s.srcCb.length = 64 := by simp [State.srcCb, Memory.readRun]

@[simp] theorem length_srcCr (s : State) : s.srcCr.length = 64 := by simp [State.srcCr, Memory.readRun]

@[simp] theorem length_srcBytes (s : State) : s.srcBytes.length = 384 := by simp [State.srcBytes]

@[simp] theorem length_assemble4 (cs : List Candidate) : (assemble4 cs).length = 256 := by simp [assemble4]

/-- Samples of an in-range value are stored exactly. -/
theorem byteOf_toNat {v : Int} (h0 : 0 ≤ v) (h1 : v ≤ 255) : ((byteOf v).toNat : Int) = v := by
  simp [byteOf, BitVec.toNat_ofInt]; omega

/-! ### The block order -/

theorem blkX_lt (k : Nat) : blkX k < 4 := by unfold blkX; omega

theorem blkY_lt {k : Nat} (hk : k < 16) : blkY k < 4 := by unfold blkY; omega

theorem blkIdx_lt {X Y : Nat} (hX : X < 4) (hY : Y < 4) : blkIdx X Y < 16 := by unfold blkIdx; omega

theorem blkX_blkIdx {X Y : Nat} (hX : X < 4) : blkX (blkIdx X Y) = X := by unfold blkX blkIdx; omega

theorem blkY_blkIdx {X Y : Nat} (hX : X < 4) : blkY (blkIdx X Y) = Y := by unfold blkY blkIdx; omega

theorem blkIdx_blk (k : Nat) : blkIdx (blkX k) (blkY k) = k := by unfold blkX blkY blkIdx; omega

/-! ### SAD -/

theorem sad_nil_left (b : List Byte) : sad [] b = 0 := rfl

theorem sad_cons (p q : Byte) (a b : List Byte) :
    sad (p :: a) (q :: b) = (sampleOf p - sampleOf q).natAbs + sad a b := by simp [sad]

theorem sampleOf_diff_le (p q : Byte) : (sampleOf p - sampleOf q).natAbs ≤ 255 := by
  have := p.isLt; have := q.isLt
  unfold sampleOf; omega

/-- Each sample costs at most 255 (44_selection.md R104). -/
theorem sad_le (a b : List Byte) : sad a b ≤ 255 * a.length := by
  induction a generalizing b with
  | nil => simp [sad]
  | cons p a ih =>
    cases b with
    | nil => simp [sad]
    | cons q b =>
      have := ih b
      have := sampleOf_diff_le p q
      rw [sad_cons, List.length_cons]; omega

/-! ### The first minimum -/

theorem foldl_betterOf {α : Type} (cost : α → Nat) (cs : List α) (c : α) :
    ∃ before after, c :: cs = before ++ cs.foldl (betterOf cost) c :: after ∧
      (∀ a ∈ before, cost (cs.foldl (betterOf cost) c) < cost a) ∧ ∀ a ∈ after, cost (cs.foldl (betterOf cost) c) ≤ cost a := by
  induction cs generalizing c with
  | nil => exact ⟨[], [], rfl, by simp, by simp⟩
  | cons d cs ih =>
    simp only [List.foldl_cons]
    by_cases h : cost d < cost c
    · rw [betterOf, if_pos h]
      obtain ⟨b, a, he, hb, ha⟩ := ih d
      refine ⟨c :: b, a, by rw [he]; rfl, fun x hx => ?_, ha⟩
      rcases List.mem_cons.1 hx with rfl | hx
      · cases b with
        | nil => simp only [List.nil_append, List.cons.injEq] at he; rw [← he.1]; exact h
        | cons e b => simp only [List.cons_append, List.cons.injEq] at he
                      have := hb e (by simp); rw [← he.1] at this; omega
      · exact hb x hx
    · rw [betterOf, if_neg h]
      obtain ⟨b, a, he, hb, ha⟩ := ih c
      cases b with
      | nil =>
        simp only [List.nil_append, List.cons.injEq] at he
        refine ⟨[], d :: a, by rw [← he.1, ← he.2]; rfl, by simp, fun x hx => ?_⟩
        rcases List.mem_cons.1 hx with rfl | hx
        · rw [← he.1]; omega
        · exact ha x hx
      | cons e b =>
        simp only [List.cons_append, List.cons.injEq] at he
        have hc := hb c (by rw [he.1]; simp)
        refine ⟨c :: d :: b, a, congrArg (fun l => c :: d :: l) he.2, fun x hx => ?_, ha⟩
        rcases List.mem_cons.1 hx with rfl | hx
        · exact hc
        · rcases List.mem_cons.1 hx with rfl | hx
          · omega
          · exact hb x (by simp [hx])

/-- `argmin_first` returns an element before which everything is dearer and after which nothing is cheaper (44_selection.md
R105). -/
theorem argminFirst_spec {α : Type} {cost : α → Nat} {cs : List α} {c : α} (h : argminFirst cost cs = some c) :
    ∃ before after, cs = before ++ c :: after ∧ (∀ a ∈ before, cost c < cost a) ∧ ∀ a ∈ after, cost c ≤ cost a := by
  cases cs with
  | nil => simp [argminFirst] at h
  | cons d cs =>
    obtain rfl : cs.foldl (betterOf cost) d = c := by simpa [argminFirst] using h
    exact foldl_betterOf cost cs d

theorem argminFirst_mem {α : Type} {cost : α → Nat} {cs : List α} {c : α} (h : argminFirst cost cs = some c) : c ∈ cs := by
  obtain ⟨b, a, rfl, -⟩ := argminFirst_spec h
  simp

theorem argminFirst_le {α : Type} {cost : α → Nat} {cs : List α} {c : α} (h : argminFirst cost cs = some c) :
    ∀ a ∈ cs, cost c ≤ cost a := by
  obtain ⟨b, a, rfl, hb, ha⟩ := argminFirst_spec h
  intro x hx
  rcases List.mem_append.1 hx with hx | hx
  · exact (hb x hx).le
  · rcases List.mem_cons.1 hx with rfl | hx
    · exact le_rfl
    · exact ha x hx

/-- A non-empty list has a first minimum. -/
theorem argminFirst_isSome {α : Type} {cost : α → Nat} {cs : List α} (h : cs ≠ []) : ∃ c, argminFirst cost cs = some c := by
  cases cs with
  | nil => exact absurd rfl h
  | cons c cs => exact ⟨_, rfl⟩

/-! ### The choices -/

theorem I4Mode.num_le (m : I4Mode) : m.num ≤ 8 := by cases m <;> decide

theorem I16Mode.num_le (m : I16Mode) : m.num ≤ 3 := by cases m <;> decide

theorem CMode.num_le (m : CMode) : m.num ≤ 3 := by cases m <;> decide

/-- A block's choice is one of its candidates. -/
theorem selectI4_mem (p : Predictor) (src : List Byte) : selectI4 p src ∈ i4Candidates p src := by
  have hne : i4Candidates p src ≠ [] :=
    List.ne_nil_of_mem (a := { mode := I4Mode.dc.num, cost := sad (I4Mode.dc.block p) src, pred := I4Mode.dc.block p })
      (by simp only [i4Candidates, List.mem_map, List.mem_filter]; exact ⟨.dc, by simp [I4Mode.all, I4Mode.legal], rfl⟩)
  obtain ⟨c, hc⟩ := argminFirst_isSome (cost := Candidate.cost) hne
  rw [selectI4, hc]
  exact argminFirst_mem hc

theorem selectI16_mem (p : Predictor) (src : List Byte) : selectI16 p src ∈ i16Candidates p src := by
  have hne : i16Candidates p src ≠ [] :=
    List.ne_nil_of_mem (a := { mode := I16Mode.dc.num, cost := sad (I16Mode.dc.block p) src, pred := I16Mode.dc.block p })
      (by simp only [i16Candidates, List.mem_map, List.mem_filter]; exact ⟨.dc, by simp [I16Mode.all, I16Mode.legal], rfl⟩)
  obtain ⟨c, hc⟩ := argminFirst_isSome (cost := Candidate.cost) hne
  rw [selectI16, hc]
  exact argminFirst_mem hc

theorem selectC_mem (pb pr : Predictor) (srcCb srcCr : List Byte) :
    selectC pb pr srcCb srcCr ∈ cCandidates pb pr srcCb srcCr := by
  have hne : cCandidates pb pr srcCb srcCr ≠ [] :=
    List.ne_nil_of_mem (a := CMode.dc.candidate pb pr srcCb srcCr)
      (by simp only [cCandidates, List.mem_map, List.mem_filter]; exact ⟨.dc, by simp [CMode.all, CMode.legal], rfl⟩)
  obtain ⟨c, hc⟩ := argminFirst_isSome (cost := CCandidate.cost) hne
  rw [selectC, hc]
  exact argminFirst_mem hc

/-- What every 4x4 choice is: a mode number, a prediction of 16 samples, a cost in range. -/
theorem selectI4_bounds (p : Predictor) (src : List Byte) :
    (selectI4 p src).mode ≤ 8 ∧ (selectI4 p src).pred.length = 16 ∧ (selectI4 p src).cost ≤ 4080 := by
  have h := selectI4_mem p src
  simp only [i4Candidates, List.mem_map, List.mem_filter] at h
  obtain ⟨m, -, h⟩ := h
  rw [← h]
  have := sad_le (m.block p) src
  simp only [length_I4Mode_block] at this
  exact ⟨m.num_le, by simp, this⟩

theorem selectI16_bounds (p : Predictor) (src : List Byte) :
    (selectI16 p src).mode ≤ 3 ∧ (selectI16 p src).pred.length = 256 ∧ (selectI16 p src).cost ≤ 65280 := by
  have h := selectI16_mem p src
  simp only [i16Candidates, List.mem_map, List.mem_filter] at h
  obtain ⟨m, -, h⟩ := h
  rw [← h]
  have := sad_le (m.block p) src
  simp only [length_I16Mode_block] at this
  exact ⟨m.num_le, by simp, this⟩

theorem selectC_bounds (pb pr : Predictor) (srcCb srcCr : List Byte) :
    (selectC pb pr srcCb srcCr).mode ≤ 3 ∧ (selectC pb pr srcCb srcCr).predCb.length = 64 ∧
      (selectC pb pr srcCb srcCr).predCr.length = 64 ∧ (selectC pb pr srcCb srcCr).costCb ≤ 16320 ∧
      (selectC pb pr srcCb srcCr).costCr ≤ 16320 := by
  have h := selectC_mem pb pr srcCb srcCr
  simp only [cCandidates, List.mem_map, List.mem_filter] at h
  obtain ⟨m, -, h⟩ := h
  rw [← h]
  have hb := sad_le (m.block pb) srcCb
  have hr := sad_le (m.block pr) srcCr
  simp only [length_CMode_block] at hb hr
  exact ⟨m.num_le, by simp [CMode.candidate], by simp [CMode.candidate], hb, hr⟩

/-! ### The 4x4 pass -/

@[simp] theorem length_i4Chain (s : State) (b : Bool) (n k : Nat) : (s.i4Chain b n k).length = k := by
  induction k with
  | zero => rfl
  | succ k ih => simp [State.i4Chain, ih]

/-- The chain of `k` blocks is the front of every longer one. -/
theorem i4Chain_take (s : State) (b : Bool) (n : Nat) {j k : Nat} (h : j ≤ k) : (s.i4Chain b n k).take j = s.i4Chain b n j := by
  induction k with
  | zero => obtain rfl : j = 0 := by omega
            rfl
  | succ k ih =>
    rcases Nat.lt_or_ge k j with hj | hj
    · obtain rfl : j = k + 1 := by omega
      rw [List.take_of_length_le (by simp)]
    · rw [State.i4Chain, List.take_append_of_le_length (by simpa using hj), ih hj]

/-- Block `j`'s choice in a chain that has reached it. -/
theorem i4Chain_getElem? (s : State) (b : Bool) (n : Nat) {j k : Nat} (h : j < k) :
    (s.i4Chain b n k)[j]? =
      some (selectI4 (s.predictor4 n (intraBlocks b s.srcY (s.i4Chain b n j)) j) (subBlock s.srcY j)) := by
  have : (s.i4Chain b n k)[j]? = ((s.i4Chain b n k).take (j + 1))[j]? := by simp
  rw [this, i4Chain_take s b n (by omega), State.i4Chain]
  simp

/-- Every choice of a chain is in bounds. -/
theorem i4Chain_bounds {s : State} {b : Bool} {n k : Nat} {c : Candidate} (h : c ∈ s.i4Chain b n k) :
    c.mode ≤ 8 ∧ c.pred.length = 16 ∧ c.cost ≤ 4080 := by
  induction k with
  | zero => simp [State.i4Chain] at h
  | succ k ih =>
    rcases List.mem_append.1 h with h | h
    · exact ih h
    · rw [List.mem_singleton.1 h]; exact selectI4_bounds _ _

theorem costOf4_le {cs : List Candidate} (h : ∀ c ∈ cs, c.cost ≤ 4080) : costOf4 cs ≤ 4080 * cs.length := by
  induction cs with
  | nil => simp [costOf4]
  | cons c cs ih =>
    have := ih fun d hd => h d (by simp [hd])
    have := h c (by simp)
    simp only [costOf4, List.map_cons, List.sum_cons, List.length_cons] at *
    omega

/-! ### Evaluations -/

/-- An evaluation whose parts are in bounds, as every one the engine makes is. -/
structure Evaluation.Bounded (e : Evaluation) : Prop where
  count : e.i4.length = 16
  mode4 : ∀ c ∈ e.i4, c.mode ≤ 8
  pred4 : ∀ c ∈ e.i4, c.pred.length = 16
  cost4 : ∀ c ∈ e.i4, c.cost ≤ 4080
  mode16 : e.i16.mode ≤ 3
  pred16 : e.i16.pred.length = 256
  cost16 : e.i16.cost ≤ 65280
  modeC : e.c.mode ≤ 3
  predCb : e.c.predCb.length = 64
  predCr : e.c.predCr.length = 64
  costCb : e.c.costCb ≤ 16320
  costCr : e.c.costCr ≤ 16320

theorem evaluate_bounded (s : State) (b : Bool) (n : Nat) : (s.evaluate b n).Bounded where
  count := by simp [State.evaluate, State.i4Pass]
  mode4 c hc := (i4Chain_bounds hc).1
  pred4 c hc := (i4Chain_bounds hc).2.1
  cost4 c hc := (i4Chain_bounds hc).2.2
  mode16 := (selectI16_bounds _ _).1
  pred16 := (selectI16_bounds _ _).2.1
  cost16 := (selectI16_bounds _ _).2.2
  modeC := (selectC_bounds _ _ _ _).1
  predCb := (selectC_bounds _ _ _ _).2.1
  predCr := (selectC_bounds _ _ _ _).2.2.1
  costCb := (selectC_bounds _ _ _ _).2.2.2.1
  costCr := (selectC_bounds _ _ _ _).2.2.2.2

theorem Evaluation.Bounded.cost4_le {e : Evaluation} (h : e.Bounded) : e.cost4 ≤ 65280 := by
  have := costOf4_le h.cost4
  rw [h.count] at this
  exact this

theorem Evaluation.Bounded.length_predY {e : Evaluation} (h : e.Bounded) : e.predY.length = 256 := by
  unfold Evaluation.predY
  split
  · exact h.pred16
  · simp

theorem Evaluation.Bounded.length_predBytes {e : Evaluation} (h : e.Bounded) : e.predBytes.length = 384 := by
  simp [Evaluation.predBytes, h.length_predY, h.predCb, h.predCr]

end Sys2Proof.Machine
end

