-- ==== Sys2Proof/Laws/State.lean ====
section
/-! SUPPORT. What each named update does to each field of the state: one lemma per field and update, all true by definition, so
that no later proof unfolds a record update. -/

namespace Sys2Proof.Machine

/-! ### Issue -/

@[simp] theorem State.issue_irqEn (w : Word) (s : State) : (s.issue w).irqEn = s.irqEn := rfl
@[simp] theorem State.issue_bsrc (w : Word) (s : State) : (s.issue w).bsrc = s.bsrc := rfl
@[simp] theorem State.issue_done (w : Word) (s : State) : (s.issue w).status.done = false := rfl
@[simp] theorem State.issue_err (w : Word) (s : State) : (s.issue w).status.err = false := rfl
@[simp] theorem State.issue_ovr (w : Word) (s : State) : (s.issue w).status.ovr = s.status.ovr := rfl
@[simp] theorem State.issue_errcode (w : Word) (s : State) : (s.issue w).status.errcode = 0#4 := rfl
@[simp] theorem State.issue_frameValid (w : Word) (s : State) : (s.issue w).status.frameValid = s.status.frameValid := rfl
@[simp] theorem State.issue_lastop (w : Word) (s : State) : (s.issue w).status.lastop = BitVec.ofNat 4 (fieldOp w) := rfl
@[simp] theorem State.issue_frameW (w : Word) (s : State) : (s.issue w).frameW = s.frameW := rfl
@[simp] theorem State.issue_frameH (w : Word) (s : State) : (s.issue w).frameH = s.frameH := rfl
@[simp] theorem State.issue_mbCols (w : Word) (s : State) : (s.issue w).mbCols = s.mbCols := rfl
@[simp] theorem State.issue_mbRows (w : Word) (s : State) : (s.issue w).mbRows = s.mbRows := rfl
@[simp] theorem State.issue_mbCount (w : Word) (s : State) : (s.issue w).mbCount = s.mbCount := rfl
@[simp] theorem State.issue_nextMb (w : Word) (s : State) : (s.issue w).nextMb = s.nextMb := rfl
@[simp] theorem State.issue_mbIdx (w : Word) (s : State) : (s.issue w).mbIdx = s.mbIdx := rfl
@[simp] theorem State.issue_avail (w : Word) (s : State) : (s.issue w).avail = s.avail := rfl
@[simp] theorem State.issue_result (w : Word) (s : State) : (s.issue w).result = s.result := rfl
@[simp] theorem State.issue_i4bestLo (w : Word) (s : State) : (s.issue w).i4bestLo = s.i4bestLo := rfl
@[simp] theorem State.issue_i4bestHi (w : Word) (s : State) : (s.issue w).i4bestHi = s.i4bestHi := rfl
@[simp] theorem State.issue_costI16 (w : Word) (s : State) : (s.issue w).costI16 = s.costI16 := rfl
@[simp] theorem State.issue_costI4 (w : Word) (s : State) : (s.issue w).costI4 = s.costI4 := rfl
@[simp] theorem State.issue_costLuma (w : Word) (s : State) : (s.issue w).costLuma = s.costLuma := rfl
@[simp] theorem State.issue_costChroma (w : Word) (s : State) : (s.issue w).costChroma = s.costChroma := rfl
@[simp] theorem State.issue_costCb (w : Word) (s : State) : (s.issue w).costCb = s.costCb := rfl
@[simp] theorem State.issue_costCr (w : Word) (s : State) : (s.issue w).costCr = s.costCr := rfl
@[simp] theorem State.issue_probeSad (w : Word) (s : State) : (s.issue w).probeSad = s.probeSad := rfl
@[simp] theorem State.issue_probeStat (w : Word) (s : State) : (s.issue w).probeStat = s.probeStat := rfl
@[simp] theorem State.issue_i4cost (w : Word) (s : State) : (s.issue w).i4cost = s.i4cost := rfl
@[simp] theorem State.issue_mem (w : Word) (s : State) : (s.issue w).mem = s.mem := rfl
@[simp] theorem State.issue_inflight (w : Word) (s : State) : (s.issue w).inflight = some (s.latchNow w) := rfl
@[simp] theorem State.issue_script (w : Word) (s : State) : (s.issue w).script = s.script := rfl
@[simp] theorem State.issue_bus (w : Word) (s : State) : (s.issue w).bus = s.bus := rfl
@[simp] theorem State.issue_draws (w : Word) (s : State) : (s.issue w).draws = s.draws := rfl

/-! ### Completion -/

@[simp] theorem State.succeed_irqEn (s : State) : (s.succeed).irqEn = s.irqEn := rfl
@[simp] theorem State.succeed_bsrc (s : State) : (s.succeed).bsrc = s.bsrc := rfl
@[simp] theorem State.succeed_done (s : State) : (s.succeed).status.done = true := rfl
@[simp] theorem State.succeed_err (s : State) : (s.succeed).status.err = s.status.err := rfl
@[simp] theorem State.succeed_ovr (s : State) : (s.succeed).status.ovr = s.status.ovr := rfl
@[simp] theorem State.succeed_errcode (s : State) : (s.succeed).status.errcode = s.status.errcode := rfl
@[simp] theorem State.succeed_frameValid (s : State) : (s.succeed).status.frameValid = s.status.frameValid := rfl
@[simp] theorem State.succeed_lastop (s : State) : (s.succeed).status.lastop = s.status.lastop := rfl
@[simp] theorem State.succeed_frameW (s : State) : (s.succeed).frameW = s.frameW := rfl
@[simp] theorem State.succeed_frameH (s : State) : (s.succeed).frameH = s.frameH := rfl
@[simp] theorem State.succeed_mbCols (s : State) : (s.succeed).mbCols = s.mbCols := rfl
@[simp] theorem State.succeed_mbRows (s : State) : (s.succeed).mbRows = s.mbRows := rfl
@[simp] theorem State.succeed_mbCount (s : State) : (s.succeed).mbCount = s.mbCount := rfl
@[simp] theorem State.succeed_nextMb (s : State) : (s.succeed).nextMb = s.nextMb := rfl
@[simp] theorem State.succeed_mbIdx (s : State) : (s.succeed).mbIdx = s.mbIdx := rfl
@[simp] theorem State.succeed_avail (s : State) : (s.succeed).avail = s.avail := rfl
@[simp] theorem State.succeed_result (s : State) : (s.succeed).result = s.result := rfl
@[simp] theorem State.succeed_i4bestLo (s : State) : (s.succeed).i4bestLo = s.i4bestLo := rfl
@[simp] theorem State.succeed_i4bestHi (s : State) : (s.succeed).i4bestHi = s.i4bestHi := rfl
@[simp] theorem State.succeed_costI16 (s : State) : (s.succeed).costI16 = s.costI16 := rfl
@[simp] theorem State.succeed_costI4 (s : State) : (s.succeed).costI4 = s.costI4 := rfl
@[simp] theorem State.succeed_costLuma (s : State) : (s.succeed).costLuma = s.costLuma := rfl
@[simp] theorem State.succeed_costChroma (s : State) : (s.succeed).costChroma = s.costChroma := rfl
@[simp] theorem State.succeed_costCb (s : State) : (s.succeed).costCb = s.costCb := rfl
@[simp] theorem State.succeed_costCr (s : State) : (s.succeed).costCr = s.costCr := rfl
@[simp] theorem State.succeed_probeSad (s : State) : (s.succeed).probeSad = s.probeSad := rfl
@[simp] theorem State.succeed_probeStat (s : State) : (s.succeed).probeStat = s.probeStat := rfl
@[simp] theorem State.succeed_i4cost (s : State) : (s.succeed).i4cost = s.i4cost := rfl
@[simp] theorem State.succeed_mem (s : State) : (s.succeed).mem = s.mem := rfl
@[simp] theorem State.succeed_inflight (s : State) : (s.succeed).inflight = none := rfl
@[simp] theorem State.succeed_script (s : State) : (s.succeed).script = s.script := rfl
@[simp] theorem State.succeed_bus (s : State) : (s.succeed).bus = s.bus := rfl
@[simp] theorem State.succeed_draws (s : State) : (s.succeed).draws = s.draws := rfl

/-! ### The error entry -/

@[simp] theorem State.raiseCmdError_irqEn (e : CmdError) (s : State) : (s.raiseCmdError e).irqEn = s.irqEn := rfl
@[simp] theorem State.raiseCmdError_bsrc (e : CmdError) (s : State) : (s.raiseCmdError e).bsrc = s.bsrc := rfl
@[simp] theorem State.raiseCmdError_done (e : CmdError) (s : State) : (s.raiseCmdError e).status.done = s.status.done := rfl
@[simp] theorem State.raiseCmdError_err (e : CmdError) (s : State) : (s.raiseCmdError e).status.err = true := rfl
@[simp] theorem State.raiseCmdError_ovr (e : CmdError) (s : State) : (s.raiseCmdError e).status.ovr = s.status.ovr := rfl
@[simp] theorem State.raiseCmdError_errcode (e : CmdError) (s : State) : (s.raiseCmdError e).status.errcode = e.code := rfl
@[simp] theorem State.raiseCmdError_frameValid (e : CmdError) (s : State) : (s.raiseCmdError e).status.frameValid = s.status.frameValid := rfl
@[simp] theorem State.raiseCmdError_lastop (e : CmdError) (s : State) : (s.raiseCmdError e).status.lastop = s.status.lastop := rfl
@[simp] theorem State.raiseCmdError_frameW (e : CmdError) (s : State) : (s.raiseCmdError e).frameW = s.frameW := rfl
@[simp] theorem State.raiseCmdError_frameH (e : CmdError) (s : State) : (s.raiseCmdError e).frameH = s.frameH := rfl
@[simp] theorem State.raiseCmdError_mbCols (e : CmdError) (s : State) : (s.raiseCmdError e).mbCols = s.mbCols := rfl
@[simp] theorem State.raiseCmdError_mbRows (e : CmdError) (s : State) : (s.raiseCmdError e).mbRows = s.mbRows := rfl
@[simp] theorem State.raiseCmdError_mbCount (e : CmdError) (s : State) : (s.raiseCmdError e).mbCount = s.mbCount := rfl
@[simp] theorem State.raiseCmdError_nextMb (e : CmdError) (s : State) : (s.raiseCmdError e).nextMb = s.nextMb := rfl
@[simp] theorem State.raiseCmdError_mbIdx (e : CmdError) (s : State) : (s.raiseCmdError e).mbIdx = s.mbIdx := rfl
@[simp] theorem State.raiseCmdError_avail (e : CmdError) (s : State) : (s.raiseCmdError e).avail = s.avail := rfl
@[simp] theorem State.raiseCmdError_result (e : CmdError) (s : State) : (s.raiseCmdError e).result = s.result := rfl
@[simp] theorem State.raiseCmdError_i4bestLo (e : CmdError) (s : State) : (s.raiseCmdError e).i4bestLo = s.i4bestLo := rfl
@[simp] theorem State.raiseCmdError_i4bestHi (e : CmdError) (s : State) : (s.raiseCmdError e).i4bestHi = s.i4bestHi := rfl
@[simp] theorem State.raiseCmdError_costI16 (e : CmdError) (s : State) : (s.raiseCmdError e).costI16 = s.costI16 := rfl
@[simp] theorem State.raiseCmdError_costI4 (e : CmdError) (s : State) : (s.raiseCmdError e).costI4 = s.costI4 := rfl
@[simp] theorem State.raiseCmdError_costLuma (e : CmdError) (s : State) : (s.raiseCmdError e).costLuma = s.costLuma := rfl
@[simp] theorem State.raiseCmdError_costChroma (e : CmdError) (s : State) : (s.raiseCmdError e).costChroma = s.costChroma := rfl
@[simp] theorem State.raiseCmdError_costCb (e : CmdError) (s : State) : (s.raiseCmdError e).costCb = s.costCb := rfl
@[simp] theorem State.raiseCmdError_costCr (e : CmdError) (s : State) : (s.raiseCmdError e).costCr = s.costCr := rfl
@[simp] theorem State.raiseCmdError_probeSad (e : CmdError) (s : State) : (s.raiseCmdError e).probeSad = s.probeSad := rfl
@[simp] theorem State.raiseCmdError_probeStat (e : CmdError) (s : State) : (s.raiseCmdError e).probeStat = s.probeStat := rfl
@[simp] theorem State.raiseCmdError_i4cost (e : CmdError) (s : State) : (s.raiseCmdError e).i4cost = s.i4cost := rfl
@[simp] theorem State.raiseCmdError_mem (e : CmdError) (s : State) : (s.raiseCmdError e).mem = s.mem := rfl
@[simp] theorem State.raiseCmdError_inflight (e : CmdError) (s : State) : (s.raiseCmdError e).inflight = none := rfl
@[simp] theorem State.raiseCmdError_script (e : CmdError) (s : State) : (s.raiseCmdError e).script = s.script := rfl
@[simp] theorem State.raiseCmdError_bus (e : CmdError) (s : State) : (s.raiseCmdError e).bus = s.bus := rfl
@[simp] theorem State.raiseCmdError_draws (e : CmdError) (s : State) : (s.raiseCmdError e).draws = s.draws := rfl

/-! ### Clearing `STATUS` -/

@[simp] theorem State.clearStatus_irqEn (v : Word) (s : State) : (s.clearStatus v).irqEn = s.irqEn := rfl
@[simp] theorem State.clearStatus_bsrc (v : Word) (s : State) : (s.clearStatus v).bsrc = s.bsrc := rfl
@[simp] theorem State.clearStatus_done (v : Word) (s : State) : (s.clearStatus v).status.done = (s.status.done && !v.getLsbD 1) := rfl
@[simp] theorem State.clearStatus_err (v : Word) (s : State) : (s.clearStatus v).status.err = (s.status.err && !v.getLsbD 2) := rfl
@[simp] theorem State.clearStatus_ovr (v : Word) (s : State) : (s.clearStatus v).status.ovr = (s.status.ovr && !v.getLsbD 3) := rfl
@[simp] theorem State.clearStatus_errcode (v : Word) (s : State) : (s.clearStatus v).status.errcode = (if v.getLsbD 2 then 0#4 else s.status.errcode) := rfl
@[simp] theorem State.clearStatus_frameValid (v : Word) (s : State) : (s.clearStatus v).status.frameValid = s.status.frameValid := rfl
@[simp] theorem State.clearStatus_lastop (v : Word) (s : State) : (s.clearStatus v).status.lastop = s.status.lastop := rfl
@[simp] theorem State.clearStatus_frameW (v : Word) (s : State) : (s.clearStatus v).frameW = s.frameW := rfl
@[simp] theorem State.clearStatus_frameH (v : Word) (s : State) : (s.clearStatus v).frameH = s.frameH := rfl
@[simp] theorem State.clearStatus_mbCols (v : Word) (s : State) : (s.clearStatus v).mbCols = s.mbCols := rfl
@[simp] theorem State.clearStatus_mbRows (v : Word) (s : State) : (s.clearStatus v).mbRows = s.mbRows := rfl
@[simp] theorem State.clearStatus_mbCount (v : Word) (s : State) : (s.clearStatus v).mbCount = s.mbCount := rfl
@[simp] theorem State.clearStatus_nextMb (v : Word) (s : State) : (s.clearStatus v).nextMb = s.nextMb := rfl
@[simp] theorem State.clearStatus_mbIdx (v : Word) (s : State) : (s.clearStatus v).mbIdx = s.mbIdx := rfl
@[simp] theorem State.clearStatus_avail (v : Word) (s : State) : (s.clearStatus v).avail = s.avail := rfl
@[simp] theorem State.clearStatus_result (v : Word) (s : State) : (s.clearStatus v).result = s.result := rfl
@[simp] theorem State.clearStatus_i4bestLo (v : Word) (s : State) : (s.clearStatus v).i4bestLo = s.i4bestLo := rfl
@[simp] theorem State.clearStatus_i4bestHi (v : Word) (s : State) : (s.clearStatus v).i4bestHi = s.i4bestHi := rfl
@[simp] theorem State.clearStatus_costI16 (v : Word) (s : State) : (s.clearStatus v).costI16 = s.costI16 := rfl
@[simp] theorem State.clearStatus_costI4 (v : Word) (s : State) : (s.clearStatus v).costI4 = s.costI4 := rfl
@[simp] theorem State.clearStatus_costLuma (v : Word) (s : State) : (s.clearStatus v).costLuma = s.costLuma := rfl
@[simp] theorem State.clearStatus_costChroma (v : Word) (s : State) : (s.clearStatus v).costChroma = s.costChroma := rfl
@[simp] theorem State.clearStatus_costCb (v : Word) (s : State) : (s.clearStatus v).costCb = s.costCb := rfl
@[simp] theorem State.clearStatus_costCr (v : Word) (s : State) : (s.clearStatus v).costCr = s.costCr := rfl
@[simp] theorem State.clearStatus_probeSad (v : Word) (s : State) : (s.clearStatus v).probeSad = s.probeSad := rfl
@[simp] theorem State.clearStatus_probeStat (v : Word) (s : State) : (s.clearStatus v).probeStat = s.probeStat := rfl
@[simp] theorem State.clearStatus_i4cost (v : Word) (s : State) : (s.clearStatus v).i4cost = s.i4cost := rfl
@[simp] theorem State.clearStatus_mem (v : Word) (s : State) : (s.clearStatus v).mem = s.mem := rfl
@[simp] theorem State.clearStatus_inflight (v : Word) (s : State) : (s.clearStatus v).inflight = s.inflight := rfl
@[simp] theorem State.clearStatus_script (v : Word) (s : State) : (s.clearStatus v).script = s.script := rfl
@[simp] theorem State.clearStatus_bus (v : Word) (s : State) : (s.clearStatus v).bus = s.bus := rfl
@[simp] theorem State.clearStatus_draws (v : Word) (s : State) : (s.clearStatus v).draws = s.draws := rfl

/-! ### The memories -/

@[simp] theorem State.setMem_irqEn (m : Memory) (s : State) : (s.setMem m).irqEn = s.irqEn := rfl
@[simp] theorem State.setMem_bsrc (m : Memory) (s : State) : (s.setMem m).bsrc = s.bsrc := rfl
@[simp] theorem State.setMem_status (m : Memory) (s : State) : (s.setMem m).status = s.status := rfl
@[simp] theorem State.setMem_frameW (m : Memory) (s : State) : (s.setMem m).frameW = s.frameW := rfl
@[simp] theorem State.setMem_frameH (m : Memory) (s : State) : (s.setMem m).frameH = s.frameH := rfl
@[simp] theorem State.setMem_mbCols (m : Memory) (s : State) : (s.setMem m).mbCols = s.mbCols := rfl
@[simp] theorem State.setMem_mbRows (m : Memory) (s : State) : (s.setMem m).mbRows = s.mbRows := rfl
@[simp] theorem State.setMem_mbCount (m : Memory) (s : State) : (s.setMem m).mbCount = s.mbCount := rfl
@[simp] theorem State.setMem_nextMb (m : Memory) (s : State) : (s.setMem m).nextMb = s.nextMb := rfl
@[simp] theorem State.setMem_mbIdx (m : Memory) (s : State) : (s.setMem m).mbIdx = s.mbIdx := rfl
@[simp] theorem State.setMem_avail (m : Memory) (s : State) : (s.setMem m).avail = s.avail := rfl
@[simp] theorem State.setMem_result (m : Memory) (s : State) : (s.setMem m).result = s.result := rfl
@[simp] theorem State.setMem_i4bestLo (m : Memory) (s : State) : (s.setMem m).i4bestLo = s.i4bestLo := rfl
@[simp] theorem State.setMem_i4bestHi (m : Memory) (s : State) : (s.setMem m).i4bestHi = s.i4bestHi := rfl
@[simp] theorem State.setMem_costI16 (m : Memory) (s : State) : (s.setMem m).costI16 = s.costI16 := rfl
@[simp] theorem State.setMem_costI4 (m : Memory) (s : State) : (s.setMem m).costI4 = s.costI4 := rfl
@[simp] theorem State.setMem_costLuma (m : Memory) (s : State) : (s.setMem m).costLuma = s.costLuma := rfl
@[simp] theorem State.setMem_costChroma (m : Memory) (s : State) : (s.setMem m).costChroma = s.costChroma := rfl
@[simp] theorem State.setMem_costCb (m : Memory) (s : State) : (s.setMem m).costCb = s.costCb := rfl
@[simp] theorem State.setMem_costCr (m : Memory) (s : State) : (s.setMem m).costCr = s.costCr := rfl
@[simp] theorem State.setMem_probeSad (m : Memory) (s : State) : (s.setMem m).probeSad = s.probeSad := rfl
@[simp] theorem State.setMem_probeStat (m : Memory) (s : State) : (s.setMem m).probeStat = s.probeStat := rfl
@[simp] theorem State.setMem_i4cost (m : Memory) (s : State) : (s.setMem m).i4cost = s.i4cost := rfl
@[simp] theorem State.setMem_mem (m : Memory) (s : State) : (s.setMem m).mem = m := rfl
@[simp] theorem State.setMem_inflight (m : Memory) (s : State) : (s.setMem m).inflight = s.inflight := rfl
@[simp] theorem State.setMem_script (m : Memory) (s : State) : (s.setMem m).script = s.script := rfl
@[simp] theorem State.setMem_bus (m : Memory) (s : State) : (s.setMem m).bus = s.bus := rfl
@[simp] theorem State.setMem_draws (m : Memory) (s : State) : (s.setMem m).draws = s.draws := rfl

/-! ### The answer on the bus -/

@[simp] theorem State.answer_irqEn (r : Response) (s : State) : (s.answer r).irqEn = s.irqEn := rfl
@[simp] theorem State.answer_bsrc (r : Response) (s : State) : (s.answer r).bsrc = s.bsrc := rfl
@[simp] theorem State.answer_status (r : Response) (s : State) : (s.answer r).status = s.status := rfl
@[simp] theorem State.answer_frameW (r : Response) (s : State) : (s.answer r).frameW = s.frameW := rfl
@[simp] theorem State.answer_frameH (r : Response) (s : State) : (s.answer r).frameH = s.frameH := rfl
@[simp] theorem State.answer_mbCols (r : Response) (s : State) : (s.answer r).mbCols = s.mbCols := rfl
@[simp] theorem State.answer_mbRows (r : Response) (s : State) : (s.answer r).mbRows = s.mbRows := rfl
@[simp] theorem State.answer_mbCount (r : Response) (s : State) : (s.answer r).mbCount = s.mbCount := rfl
@[simp] theorem State.answer_nextMb (r : Response) (s : State) : (s.answer r).nextMb = s.nextMb := rfl
@[simp] theorem State.answer_mbIdx (r : Response) (s : State) : (s.answer r).mbIdx = s.mbIdx := rfl
@[simp] theorem State.answer_avail (r : Response) (s : State) : (s.answer r).avail = s.avail := rfl
@[simp] theorem State.answer_result (r : Response) (s : State) : (s.answer r).result = s.result := rfl
@[simp] theorem State.answer_i4bestLo (r : Response) (s : State) : (s.answer r).i4bestLo = s.i4bestLo := rfl
@[simp] theorem State.answer_i4bestHi (r : Response) (s : State) : (s.answer r).i4bestHi = s.i4bestHi := rfl
@[simp] theorem State.answer_costI16 (r : Response) (s : State) : (s.answer r).costI16 = s.costI16 := rfl
@[simp] theorem State.answer_costI4 (r : Response) (s : State) : (s.answer r).costI4 = s.costI4 := rfl
@[simp] theorem State.answer_costLuma (r : Response) (s : State) : (s.answer r).costLuma = s.costLuma := rfl
@[simp] theorem State.answer_costChroma (r : Response) (s : State) : (s.answer r).costChroma = s.costChroma := rfl
@[simp] theorem State.answer_costCb (r : Response) (s : State) : (s.answer r).costCb = s.costCb := rfl
@[simp] theorem State.answer_costCr (r : Response) (s : State) : (s.answer r).costCr = s.costCr := rfl
@[simp] theorem State.answer_probeSad (r : Response) (s : State) : (s.answer r).probeSad = s.probeSad := rfl
@[simp] theorem State.answer_probeStat (r : Response) (s : State) : (s.answer r).probeStat = s.probeStat := rfl
@[simp] theorem State.answer_i4cost (r : Response) (s : State) : (s.answer r).i4cost = s.i4cost := rfl
@[simp] theorem State.answer_mem (r : Response) (s : State) : (s.answer r).mem = s.mem := rfl
@[simp] theorem State.answer_inflight (r : Response) (s : State) : (s.answer r).inflight = s.inflight := rfl
@[simp] theorem State.answer_script (r : Response) (s : State) : (s.answer r).script = s.script := rfl
@[simp] theorem State.answer_bus (r : Response) (s : State) : (s.answer r).bus = some r := rfl
@[simp] theorem State.answer_draws (r : Response) (s : State) : (s.answer r).draws = s.draws := rfl

/-! ### The draws -/

@[simp] theorem State.draw_irqEn (s : State) : (s.draw).irqEn = s.irqEn := rfl
@[simp] theorem State.draw_bsrc (s : State) : (s.draw).bsrc = s.bsrc := rfl
@[simp] theorem State.draw_status (s : State) : (s.draw).status = s.status := rfl
@[simp] theorem State.draw_frameW (s : State) : (s.draw).frameW = s.frameW := rfl
@[simp] theorem State.draw_frameH (s : State) : (s.draw).frameH = s.frameH := rfl
@[simp] theorem State.draw_mbCols (s : State) : (s.draw).mbCols = s.mbCols := rfl
@[simp] theorem State.draw_mbRows (s : State) : (s.draw).mbRows = s.mbRows := rfl
@[simp] theorem State.draw_mbCount (s : State) : (s.draw).mbCount = s.mbCount := rfl
@[simp] theorem State.draw_nextMb (s : State) : (s.draw).nextMb = s.nextMb := rfl
@[simp] theorem State.draw_mbIdx (s : State) : (s.draw).mbIdx = s.mbIdx := rfl
@[simp] theorem State.draw_avail (s : State) : (s.draw).avail = s.avail := rfl
@[simp] theorem State.draw_result (s : State) : (s.draw).result = s.result := rfl
@[simp] theorem State.draw_i4bestLo (s : State) : (s.draw).i4bestLo = s.i4bestLo := rfl
@[simp] theorem State.draw_i4bestHi (s : State) : (s.draw).i4bestHi = s.i4bestHi := rfl
@[simp] theorem State.draw_costI16 (s : State) : (s.draw).costI16 = s.costI16 := rfl
@[simp] theorem State.draw_costI4 (s : State) : (s.draw).costI4 = s.costI4 := rfl
@[simp] theorem State.draw_costLuma (s : State) : (s.draw).costLuma = s.costLuma := rfl
@[simp] theorem State.draw_costChroma (s : State) : (s.draw).costChroma = s.costChroma := rfl
@[simp] theorem State.draw_costCb (s : State) : (s.draw).costCb = s.costCb := rfl
@[simp] theorem State.draw_costCr (s : State) : (s.draw).costCr = s.costCr := rfl
@[simp] theorem State.draw_probeSad (s : State) : (s.draw).probeSad = s.probeSad := rfl
@[simp] theorem State.draw_probeStat (s : State) : (s.draw).probeStat = s.probeStat := rfl
@[simp] theorem State.draw_i4cost (s : State) : (s.draw).i4cost = s.i4cost := rfl
@[simp] theorem State.draw_mem (s : State) : (s.draw).mem = s.mem := rfl
@[simp] theorem State.draw_inflight (s : State) : (s.draw).inflight = s.inflight := rfl
@[simp] theorem State.draw_script (s : State) : (s.draw).script = s.script := rfl
@[simp] theorem State.draw_bus (s : State) : (s.draw).bus = s.bus := rfl
@[simp] theorem State.draw_draws (s : State) : (s.draw).draws = s.draws + 1 := rfl

/-! ### A new frame -/

@[simp] theorem State.startFrame_irqEn (s : State) : (s.startFrame).irqEn = s.irqEn := rfl
@[simp] theorem State.startFrame_bsrc (s : State) : (s.startFrame).bsrc = s.bsrc := rfl
@[simp] theorem State.startFrame_done (s : State) : (s.startFrame).status.done = s.status.done := rfl
@[simp] theorem State.startFrame_err (s : State) : (s.startFrame).status.err = s.status.err := rfl
@[simp] theorem State.startFrame_ovr (s : State) : (s.startFrame).status.ovr = s.status.ovr := rfl
@[simp] theorem State.startFrame_errcode (s : State) : (s.startFrame).status.errcode = s.status.errcode := rfl
@[simp] theorem State.startFrame_frameValid (s : State) : (s.startFrame).status.frameValid = true := rfl
@[simp] theorem State.startFrame_lastop (s : State) : (s.startFrame).status.lastop = s.status.lastop := rfl
@[simp] theorem State.startFrame_frameW (s : State) : (s.startFrame).frameW = s.frameW := rfl
@[simp] theorem State.startFrame_frameH (s : State) : (s.startFrame).frameH = s.frameH := rfl
@[simp] theorem State.startFrame_mbCols (s : State) : (s.startFrame).mbCols = BitVec.ofNat 16 (s.frameW.toNat / 16) := rfl
@[simp] theorem State.startFrame_mbRows (s : State) : (s.startFrame).mbRows = BitVec.ofNat 16 (s.frameH.toNat / 16) := rfl
@[simp] theorem State.startFrame_mbCount (s : State) : (s.startFrame).mbCount = BitVec.ofNat 16 (s.frameW.toNat / 16 * (s.frameH.toNat / 16)) := rfl
@[simp] theorem State.startFrame_nextMb (s : State) : (s.startFrame).nextMb = 0#16 := rfl
@[simp] theorem State.startFrame_mbIdx (s : State) : (s.startFrame).mbIdx = s.mbIdx := rfl
@[simp] theorem State.startFrame_avail (s : State) : (s.startFrame).avail = 0#32 := rfl
@[simp] theorem State.startFrame_result (s : State) : (s.startFrame).result = 0#32 := rfl
@[simp] theorem State.startFrame_i4bestLo (s : State) : (s.startFrame).i4bestLo = 0#32 := rfl
@[simp] theorem State.startFrame_i4bestHi (s : State) : (s.startFrame).i4bestHi = 0#32 := rfl
@[simp] theorem State.startFrame_costI16 (s : State) : (s.startFrame).costI16 = 0#32 := rfl
@[simp] theorem State.startFrame_costI4 (s : State) : (s.startFrame).costI4 = 0#32 := rfl
@[simp] theorem State.startFrame_costLuma (s : State) : (s.startFrame).costLuma = 0#32 := rfl
@[simp] theorem State.startFrame_costChroma (s : State) : (s.startFrame).costChroma = 0#32 := rfl
@[simp] theorem State.startFrame_costCb (s : State) : (s.startFrame).costCb = 0#32 := rfl
@[simp] theorem State.startFrame_costCr (s : State) : (s.startFrame).costCr = 0#32 := rfl
@[simp] theorem State.startFrame_probeSad (s : State) : (s.startFrame).probeSad = 0#32 := rfl
@[simp] theorem State.startFrame_probeStat (s : State) : (s.startFrame).probeStat = 0#32 := rfl
@[simp] theorem State.startFrame_i4cost (s : State) : (s.startFrame).i4cost = State.reset.i4cost := rfl
@[simp] theorem State.startFrame_mem (s : State) : (s.startFrame).mem = s.mem := rfl
@[simp] theorem State.startFrame_inflight (s : State) : (s.startFrame).inflight = s.inflight := rfl
@[simp] theorem State.startFrame_script (s : State) : (s.startFrame).script = s.script := rfl
@[simp] theorem State.startFrame_bus (s : State) : (s.startFrame).bus = s.bus := rfl
@[simp] theorem State.startFrame_draws (s : State) : (s.startFrame).draws = s.draws := rfl

/-! ### The commit -/

@[simp] theorem State.commit_irqEn (s : State) (b : Bool) (n : Nat) (e : Evaluation) : (s.commit b n e).irqEn = s.irqEn := rfl
@[simp] theorem State.commit_bsrc (s : State) (b : Bool) (n : Nat) (e : Evaluation) : (s.commit b n e).bsrc = s.bsrc := rfl
@[simp] theorem State.commit_status (s : State) (b : Bool) (n : Nat) (e : Evaluation) : (s.commit b n e).status = s.status := rfl
@[simp] theorem State.commit_frameW (s : State) (b : Bool) (n : Nat) (e : Evaluation) : (s.commit b n e).frameW = s.frameW := rfl
@[simp] theorem State.commit_frameH (s : State) (b : Bool) (n : Nat) (e : Evaluation) : (s.commit b n e).frameH = s.frameH := rfl
@[simp] theorem State.commit_mbCols (s : State) (b : Bool) (n : Nat) (e : Evaluation) : (s.commit b n e).mbCols = s.mbCols := rfl
@[simp] theorem State.commit_mbRows (s : State) (b : Bool) (n : Nat) (e : Evaluation) : (s.commit b n e).mbRows = s.mbRows := rfl
@[simp] theorem State.commit_mbCount (s : State) (b : Bool) (n : Nat) (e : Evaluation) : (s.commit b n e).mbCount = s.mbCount := rfl
@[simp] theorem State.commit_nextMb (s : State) (b : Bool) (n : Nat) (e : Evaluation) : (s.commit b n e).nextMb = BitVec.ofNat 16 (n + 1) := rfl
@[simp] theorem State.commit_mbIdx (s : State) (b : Bool) (n : Nat) (e : Evaluation) : (s.commit b n e).mbIdx = s.mbIdx := rfl
@[simp] theorem State.commit_avail (s : State) (b : Bool) (n : Nat) (e : Evaluation) : (s.commit b n e).avail = availWord (mbAvail s.mbCols.toNat n) := rfl
@[simp] theorem State.commit_result (s : State) (b : Bool) (n : Nat) (e : Evaluation) : (s.commit b n e).result = resultWord e.isI16 e.pcm e.i16.mode e.c.mode := rfl
@[simp] theorem State.commit_i4bestLo (s : State) (b : Bool) (n : Nat) (e : Evaluation) : (s.commit b n e).i4bestLo = BitVec.ofNat 32 (nibbles (e.i4Modes.take 8)) := rfl
@[simp] theorem State.commit_i4bestHi (s : State) (b : Bool) (n : Nat) (e : Evaluation) : (s.commit b n e).i4bestHi = BitVec.ofNat 32 (nibbles (e.i4Modes.drop 8)) := rfl
@[simp] theorem State.commit_costI16 (s : State) (b : Bool) (n : Nat) (e : Evaluation) : (s.commit b n e).costI16 = BitVec.ofNat 32 e.i16.cost := rfl
@[simp] theorem State.commit_costI4 (s : State) (b : Bool) (n : Nat) (e : Evaluation) : (s.commit b n e).costI4 = BitVec.ofNat 32 e.cost4 := rfl
@[simp] theorem State.commit_costLuma (s : State) (b : Bool) (n : Nat) (e : Evaluation) : (s.commit b n e).costLuma = BitVec.ofNat 32 e.costL := rfl
@[simp] theorem State.commit_costChroma (s : State) (b : Bool) (n : Nat) (e : Evaluation) : (s.commit b n e).costChroma = BitVec.ofNat 32 e.c.cost := rfl
@[simp] theorem State.commit_costCb (s : State) (b : Bool) (n : Nat) (e : Evaluation) : (s.commit b n e).costCb = BitVec.ofNat 32 e.c.costCb := rfl
@[simp] theorem State.commit_costCr (s : State) (b : Bool) (n : Nat) (e : Evaluation) : (s.commit b n e).costCr = BitVec.ofNat 32 e.c.costCr := rfl
@[simp] theorem State.commit_probeSad (s : State) (b : Bool) (n : Nat) (e : Evaluation) : (s.commit b n e).probeSad = s.probeSad := rfl
@[simp] theorem State.commit_probeStat (s : State) (b : Bool) (n : Nat) (e : Evaluation) : (s.commit b n e).probeStat = s.probeStat := rfl
@[simp] theorem State.commit_i4cost (s : State) (b : Bool) (n : Nat) (e : Evaluation) : (s.commit b n e).i4cost = i4CostVector e.i4 := rfl
@[simp] theorem State.commit_mem (s : State) (b : Bool) (n : Nat) (e : Evaluation) : (s.commit b n e).mem = s.commitMem b n e := rfl
@[simp] theorem State.commit_inflight (s : State) (b : Bool) (n : Nat) (e : Evaluation) : (s.commit b n e).inflight = s.inflight := rfl
@[simp] theorem State.commit_script (s : State) (b : Bool) (n : Nat) (e : Evaluation) : (s.commit b n e).script = s.script := rfl
@[simp] theorem State.commit_bus (s : State) (b : Bool) (n : Nat) (e : Evaluation) : (s.commit b n e).bus = s.bus := rfl
@[simp] theorem State.commit_draws (s : State) (b : Bool) (n : Nat) (e : Evaluation) : (s.commit b n e).draws = s.draws := rfl

/-! ### A probe -/

@[simp] theorem State.recordProbe_irqEn (s : State) (n kind mode blk : Nat) (r : ProbeResult) : (s.recordProbe n kind mode blk r).irqEn = s.irqEn := rfl
@[simp] theorem State.recordProbe_bsrc (s : State) (n kind mode blk : Nat) (r : ProbeResult) : (s.recordProbe n kind mode blk r).bsrc = s.bsrc := rfl
@[simp] theorem State.recordProbe_status (s : State) (n kind mode blk : Nat) (r : ProbeResult) : (s.recordProbe n kind mode blk r).status = s.status := rfl
@[simp] theorem State.recordProbe_frameW (s : State) (n kind mode blk : Nat) (r : ProbeResult) : (s.recordProbe n kind mode blk r).frameW = s.frameW := rfl
@[simp] theorem State.recordProbe_frameH (s : State) (n kind mode blk : Nat) (r : ProbeResult) : (s.recordProbe n kind mode blk r).frameH = s.frameH := rfl
@[simp] theorem State.recordProbe_mbCols (s : State) (n kind mode blk : Nat) (r : ProbeResult) : (s.recordProbe n kind mode blk r).mbCols = s.mbCols := rfl
@[simp] theorem State.recordProbe_mbRows (s : State) (n kind mode blk : Nat) (r : ProbeResult) : (s.recordProbe n kind mode blk r).mbRows = s.mbRows := rfl
@[simp] theorem State.recordProbe_mbCount (s : State) (n kind mode blk : Nat) (r : ProbeResult) : (s.recordProbe n kind mode blk r).mbCount = s.mbCount := rfl
@[simp] theorem State.recordProbe_nextMb (s : State) (n kind mode blk : Nat) (r : ProbeResult) : (s.recordProbe n kind mode blk r).nextMb = s.nextMb := rfl
@[simp] theorem State.recordProbe_mbIdx (s : State) (n kind mode blk : Nat) (r : ProbeResult) : (s.recordProbe n kind mode blk r).mbIdx = s.mbIdx := rfl
@[simp] theorem State.recordProbe_avail (s : State) (n kind mode blk : Nat) (r : ProbeResult) : (s.recordProbe n kind mode blk r).avail = availWord (mbAvail s.mbCols.toNat n) := rfl
@[simp] theorem State.recordProbe_result (s : State) (n kind mode blk : Nat) (r : ProbeResult) : (s.recordProbe n kind mode blk r).result = s.result := rfl
@[simp] theorem State.recordProbe_i4bestLo (s : State) (n kind mode blk : Nat) (r : ProbeResult) : (s.recordProbe n kind mode blk r).i4bestLo = s.i4bestLo := rfl
@[simp] theorem State.recordProbe_i4bestHi (s : State) (n kind mode blk : Nat) (r : ProbeResult) : (s.recordProbe n kind mode blk r).i4bestHi = s.i4bestHi := rfl
@[simp] theorem State.recordProbe_costI16 (s : State) (n kind mode blk : Nat) (r : ProbeResult) : (s.recordProbe n kind mode blk r).costI16 = s.costI16 := rfl
@[simp] theorem State.recordProbe_costI4 (s : State) (n kind mode blk : Nat) (r : ProbeResult) : (s.recordProbe n kind mode blk r).costI4 = s.costI4 := rfl
@[simp] theorem State.recordProbe_costLuma (s : State) (n kind mode blk : Nat) (r : ProbeResult) : (s.recordProbe n kind mode blk r).costLuma = s.costLuma := rfl
@[simp] theorem State.recordProbe_costChroma (s : State) (n kind mode blk : Nat) (r : ProbeResult) : (s.recordProbe n kind mode blk r).costChroma = s.costChroma := rfl
@[simp] theorem State.recordProbe_costCb (s : State) (n kind mode blk : Nat) (r : ProbeResult) : (s.recordProbe n kind mode blk r).costCb = s.costCb := rfl
@[simp] theorem State.recordProbe_costCr (s : State) (n kind mode blk : Nat) (r : ProbeResult) : (s.recordProbe n kind mode blk r).costCr = s.costCr := rfl
@[simp] theorem State.recordProbe_probeSad (s : State) (n kind mode blk : Nat) (r : ProbeResult) : (s.recordProbe n kind mode blk r).probeSad = BitVec.ofNat 32 r.sad := rfl
@[simp] theorem State.recordProbe_probeStat (s : State) (n kind mode blk : Nat) (r : ProbeResult) : (s.recordProbe n kind mode blk r).probeStat = probeStatWord r.legal kind mode blk := rfl
@[simp] theorem State.recordProbe_i4cost (s : State) (n kind mode blk : Nat) (r : ProbeResult) : (s.recordProbe n kind mode blk r).i4cost = s.i4cost := rfl
@[simp] theorem State.recordProbe_mem (s : State) (n kind mode blk : Nat) (r : ProbeResult) : (s.recordProbe n kind mode blk r).mem = Memory.writeRun r.dest r.pred s.mem := rfl
@[simp] theorem State.recordProbe_inflight (s : State) (n kind mode blk : Nat) (r : ProbeResult) : (s.recordProbe n kind mode blk r).inflight = s.inflight := rfl
@[simp] theorem State.recordProbe_script (s : State) (n kind mode blk : Nat) (r : ProbeResult) : (s.recordProbe n kind mode blk r).script = s.script := rfl
@[simp] theorem State.recordProbe_bus (s : State) (n kind mode blk : Nat) (r : ProbeResult) : (s.recordProbe n kind mode blk r).bus = s.bus := rfl
@[simp] theorem State.recordProbe_draws (s : State) (n kind mode blk : Nat) (r : ProbeResult) : (s.recordProbe n kind mode blk r).draws = s.draws := rfl

end Sys2Proof.Machine
end

