-- ==== Sys2Proof/Laws/Command.lean ====
section
/-! SUPPORT. What a command, an event and a step can do, said once: the execution of each command as one function, the results
it can have, and the memory it can leave. -/

namespace Sys2Proof.Machine

/-! ### Issue and completion -/

@[simp] theorem State.runCommand_inflight {s : State} {l : Latch} (h : s.inflight = some l) (w : Word)
    (body : Latch → State → Except CmdError State) : s.runCommand w body = s.complete (body l s) := by
  simp [State.runCommand, State.engaged, State.busy, State.latched, h]

theorem State.runCommand_idle {s : State} (h : s.inflight = none) (w : Word)
    (body : Latch → State → Except CmdError State) :
    s.runCommand w body = (s.issue w).complete (body (s.latchNow w) (s.issue w)) := by
  simp [State.runCommand, State.engaged, State.busy, State.latched, h]

/-- Running a command at an idle engine is running it in the state its issue leaves. -/
theorem State.runCommand_issue {s : State} (h : s.inflight = none) (w : Word)
    (body : Latch → State → Except CmdError State) : s.runCommand w body = (s.issue w).runCommand w body := by
  rw [State.runCommand_idle h, State.runCommand_inflight (l := s.latchNow w) rfl]

@[simp] theorem State.complete_ok (s t : State) : s.complete (.ok t) = t.succeed := rfl

@[simp] theorem State.complete_error (s : State) (e : CmdError) : s.complete (.error e) = s.raiseCmdError e := rfl

/-! ### The checks -/

theorem checkMb_ready {s : State} {l : Latch} (h : s.readyFor l) : s.checkMb l = .ok l.idx.toNat := by
  obtain ⟨-, hv, hi, hn⟩ := h
  simp [State.checkMb, hv, hn, hn ▸ hi]

/-- When the checks pass, the macroblock is the latched one, it exists, and it is the next one (45_commands.md R116). -/
theorem checkMb_ok {s : State} {l : Latch} {n : Nat} (h : s.checkMb l = .ok n) :
    s.status.frameValid = true ∧ n = l.idx.toNat ∧ n < s.mbCount.toNat ∧ l.idx = s.nextMb := by
  unfold State.checkMb at h
  split at h
  · simp at h
  · split at h
    · simp at h
    · split at h
      · simp at h
      · simp only [Except.ok.injEq] at h
        refine ⟨by simp_all, h.symm, by omega, by simp_all⟩

theorem checkMb_error {s : State} {l : Latch} {e : CmdError} (h : s.checkMb l = .error e) :
    e = .noFrame ∨ e = .idx ∨ e = .order := by
  unfold State.checkMb at h
  split at h
  · simp_all
  · split at h
    · simp_all
    · split at h <;> simp_all

/-! ### Execution -/

/-- The execution of each command, with its latch, in the state it is in flight in (45_commands.md R116). -/
def bodyOf (i : Instr) (l : Latch) (s : State) : Except CmdError State :=
  match i with
  | .nop => .ok s
  | .frameInit => s.frameInit
  | .predictMb => s.predictMb l
  | .probeI4V k => s.probe 0 I4Mode.v.num k (fun b n => s.probe4 b n .v k) l
  | .probeI4H k => s.probe 0 I4Mode.h.num k (fun b n => s.probe4 b n .h k) l
  | .probeI4Dc k => s.probe 0 I4Mode.dc.num k (fun b n => s.probe4 b n .dc k) l
  | .probeI4Ddl k => s.probe 0 I4Mode.ddl.num k (fun b n => s.probe4 b n .ddl k) l
  | .probeI4Ddr k => s.probe 0 I4Mode.ddr.num k (fun b n => s.probe4 b n .ddr k) l
  | .probeI4Vr k => s.probe 0 I4Mode.vr.num k (fun b n => s.probe4 b n .vr k) l
  | .probeI4Hd k => s.probe 0 I4Mode.hd.num k (fun b n => s.probe4 b n .hd k) l
  | .probeI4Vl k => s.probe 0 I4Mode.vl.num k (fun b n => s.probe4 b n .vl k) l
  | .probeI4Hu k => s.probe 0 I4Mode.hu.num k (fun b n => s.probe4 b n .hu k) l
  | .probeI16V => s.probe 1 I16Mode.v.num 0 (fun _ n => s.probe16 n .v) l
  | .probeI16H => s.probe 1 I16Mode.h.num 0 (fun _ n => s.probe16 n .h) l
  | .probeI16Dc => s.probe 1 I16Mode.dc.num 0 (fun _ n => s.probe16 n .dc) l
  | .probeI16Plane => s.probe 1 I16Mode.plane.num 0 (fun _ n => s.probe16 n .plane) l
  | .probeCDc => s.probe 2 CMode.dc.num 0 (fun _ n => s.probeC n .dc) l
  | .probeCH => s.probe 2 CMode.h.num 0 (fun _ n => s.probeC n .h) l
  | .probeCV => s.probe 2 CMode.v.num 0 (fun _ n => s.probeC n .v) l
  | .probeCPlane => s.probe 2 CMode.plane.num 0 (fun _ n => s.probeC n .plane) l

/-- Every meaning is the command's execution between issue and completion. -/
theorem exec_eq (i : Instr) (s : State) : exec i s = .next (s.runCommand (encode i) (bodyOf i)) := by cases i <;> rfl

/-- A command in flight executes and completes. -/
theorem exec_inflight {s : State} {l : Latch} (h : s.inflight = some l) (i : Instr) :
    exec i s = .next (s.complete (bodyOf i l s)) := by
  rw [exec_eq, State.runCommand_inflight h]

@[simp] theorem bodyOf_probe4 (m : I4Mode) (k : Nat) (l : Latch) (s : State) :
    bodyOf (m.probe k) l s = s.probe 0 m.num k (fun b n => s.probe4 b n m k) l := by cases m <;> rfl

@[simp] theorem bodyOf_probe16 (m : I16Mode) (l : Latch) (s : State) :
    bodyOf m.probe l s = s.probe 1 m.num 0 (fun _ n => s.probe16 n m) l := by cases m <;> rfl

@[simp] theorem bodyOf_probeC (m : CMode) (l : Latch) (s : State) :
    bodyOf m.probe l s = s.probe 2 m.num 0 (fun _ n => s.probeC n m) l := by cases m <;> rfl

/-- Every command is `NOP`, `FRAME_INIT`, `PREDICT_MB` or a probe of a mode. -/
theorem Instr.cases_kind (i : Instr) :
    i = .nop ∨ i = .frameInit ∨ i = .predictMb ∨ (∃ m k, i = I4Mode.probe m k) ∨ (∃ m, i = I16Mode.probe m) ∨
      ∃ m, i = CMode.probe m := by
  cases i <;> simp only [reduceCtorEq, true_or, or_true, false_or]
  case probeI4V k => exact .inl ⟨.v, k, rfl⟩
  case probeI4H k => exact .inl ⟨.h, k, rfl⟩
  case probeI4Dc k => exact .inl ⟨.dc, k, rfl⟩
  case probeI4Ddl k => exact .inl ⟨.ddl, k, rfl⟩
  case probeI4Ddr k => exact .inl ⟨.ddr, k, rfl⟩
  case probeI4Vr k => exact .inl ⟨.vr, k, rfl⟩
  case probeI4Hd k => exact .inl ⟨.hd, k, rfl⟩
  case probeI4Vl k => exact .inl ⟨.vl, k, rfl⟩
  case probeI4Hu k => exact .inl ⟨.hu, k, rfl⟩
  case probeI16V => exact .inr (.inl ⟨.v, rfl⟩)
  case probeI16H => exact .inr (.inl ⟨.h, rfl⟩)
  case probeI16Dc => exact .inr (.inl ⟨.dc, rfl⟩)
  case probeI16Plane => exact .inr (.inl ⟨.plane, rfl⟩)
  case probeCDc => exact .inr (.inr ⟨.dc, rfl⟩)
  case probeCH => exact .inr (.inr ⟨.h, rfl⟩)
  case probeCV => exact .inr (.inr ⟨.v, rfl⟩)
  case probeCPlane => exact .inr (.inr ⟨.plane, rfl⟩)

/-- Where a probe may write and what it may report (45_commands.md R120 to R123). -/
structure ProbeResult.Bounded (r : ProbeResult) : Prop where
  low : probeBase ≤ r.dest
  high : r.dest + r.pred.length ≤ probeBase + 0x180
  sad : r.sad ≤ 65280

theorem probe4_bounded (s : State) (b : Bool) (n : Nat) (m : I4Mode) (k : Nat) : (s.probe4 b n m k).Bounded where
  low := le_rfl
  high := by simp [State.probe4]
  sad := (sad_le _ _).trans (by simp)

theorem probe16_bounded (s : State) (n : Nat) (m : I16Mode) : (s.probe16 n m).Bounded where
  low := le_rfl
  high := by simp [State.probe16]
  sad := (sad_le _ _).trans (by simp)

theorem probeC_bounded (s : State) (n : Nat) (m : CMode) : (s.probeC n m).Bounded where
  low := by simp [State.probeC]
  high := by simp [State.probeC, CMode.candidate]
  sad := by
    have hb := sad_le (m.block (s.predictorC dntCbBase n)) s.srcCb
    have hr := sad_le (m.block (s.predictorC dntCrBase n)) s.srcCr
    simp only [length_CMode_block] at hb hr
    simp only [State.probeC, CMode.candidate, CCandidate.cost]
    omega

/-- Everything the execution of a command can answer without error. -/
inductive Executed (i : Instr) (l : Latch) (s : State) : State → Prop
  | nop (hi : i = .nop) : Executed i l s s
  | frame (hi : i = .frameInit)
      (hd : ¬(s.frameW.toNat = 0 ∨ s.frameH.toNat = 0 ∨ s.frameW.toNat % 16 ≠ 0 ∨ s.frameH.toNat % 16 ≠ 0))
      (hr : ¬(Config.maxW < s.frameW.toNat ∨ Config.maxH < s.frameH.toNat)) : Executed i l s s.startFrame
  | predict (hi : i = .predictMb) (hv : s.status.frameValid = true) (hc : l.idx.toNat < s.mbCount.toNat)
      (hn : l.idx = s.nextMb) : Executed i l s (s.commit l.bsrc l.idx.toNat (s.evaluate l.bsrc l.idx.toNat))
  | probe (kind mode blk : Nat) (r : ProbeResult) (hr : r.Bounded) (hi : needsMb i = true)
      (hv : s.status.frameValid = true) (hc : l.idx.toNat < s.mbCount.toNat) (hn : l.idx = s.nextMb) :
      Executed i l s (s.recordProbe l.idx.toNat kind mode blk r)

/-- What no command touches: the model's own fields, the registers the host writes, and the flags issue and completion set. -/
theorem Executed.untouched {i : Instr} {l : Latch} {s t : State} (h : Executed i l s t) :
    t.script = s.script ∧ t.bus = s.bus ∧ t.draws = s.draws ∧ t.irqEn = s.irqEn ∧ t.bsrc = s.bsrc ∧ t.mbIdx = s.mbIdx ∧
      t.frameW = s.frameW ∧ t.frameH = s.frameH ∧ t.inflight = s.inflight ∧
      t.status = { s.status with frameValid := t.status.frameValid } := by
  cases h <;> exact ⟨rfl, rfl, rfl, rfl, rfl, rfl, rfl, rfl, rfl, rfl⟩

theorem probe_executed {s t : State} {l : Latch} {i : Instr} {kind mode blk : Nat} {f : Bool → Nat → ProbeResult}
    (hf : ∀ b n, (f b n).Bounded) (hi : needsMb i = true) (h : s.probe kind mode blk f l = .ok t) : Executed i l s t := by
  unfold State.probe at h
  split at h
  · simp at h
  · next n hn =>
    obtain ⟨hv, rfl, hc, hx⟩ := checkMb_ok hn
    simp only [Except.ok.injEq] at h
    subst h
    exact .probe kind mode blk _ (hf _ _) hi hv hc hx

/-- The execution of a command without error, case by case. -/
theorem bodyOf_ok {i : Instr} {l : Latch} {s t : State} (h : bodyOf i l s = .ok t) : Executed i l s t := by
  rcases Instr.cases_kind i with rfl | rfl | rfl | ⟨m, k, rfl⟩ | ⟨m, rfl⟩ | ⟨m, rfl⟩
  · simp only [bodyOf, Except.ok.injEq] at h
    subst h; exact .nop rfl
  · simp only [bodyOf, State.frameInit] at h
    split at h
    · simp at h
    · split at h
      · simp at h
      · next hd hr =>
        simp only [Except.ok.injEq] at h
        subst h; exact .frame rfl hd hr
  · simp only [bodyOf, State.predictMb] at h
    split at h
    · simp at h
    · next n hn =>
      obtain ⟨hv, rfl, hc, hx⟩ := checkMb_ok hn
      simp only [Except.ok.injEq] at h
      subst h; exact .predict rfl hv hc hx
  · rw [bodyOf_probe4] at h
    exact probe_executed (fun b n => probe4_bounded s b n m k) (by cases m <;> rfl) h
  · rw [bodyOf_probe16] at h
    exact probe_executed (fun _ n => probe16_bounded s n m) (by cases m <;> rfl) h
  · rw [bodyOf_probeC] at h
    exact probe_executed (fun _ n => probeC_bounded s n m) (by cases m <;> rfl) h

/-- A command in flight ends in the error entry or succeeds with one of the results above. -/
theorem exec_cases {i : Instr} {l : Latch} {s t : State} (hl : s.inflight = some l) (h : exec i s = .next t) :
    (∃ e, bodyOf i l s = .error e ∧ t = s.raiseCmdError e) ∨
      ∃ u, bodyOf i l s = .ok u ∧ Executed i l s u ∧ t = u.succeed := by
  rw [exec_inflight hl, Host.Outcome.next.injEq] at h
  cases hb : bodyOf i l s with
  | error e => rw [hb] at h; exact .inl ⟨e, rfl, h.symm⟩
  | ok u => rw [hb] at h; exact .inr ⟨u, rfl, bodyOf_ok hb, h.symm⟩

/-! ### Events and steps -/

/-- The engine's turn always leads on. -/
theorem engineTurn_next (s : State) : ∃ t, engineTurn s = .next t := by
  unfold engineTurn
  split
  · exact ⟨_, rfl⟩
  · split
    · rw [exec_eq]; exact ⟨_, rfl⟩
    · exact ⟨_, rfl⟩

/-- Everything the engine's turn can do. -/
theorem engineTurn_cases {s t : State} (h : engineTurn s = .next t) :
    (s.inflight = none ∧ t = s) ∨ (∃ l e, s.inflight = some l ∧ decode l.word = .error e ∧ t = s.raiseCmdError .cmd) ∨
      ∃ l i, s.inflight = some l ∧ decode l.word = .ok i ∧
        ((∃ e, bodyOf i l s = .error e ∧ t = s.raiseCmdError e) ∨
          ∃ u, bodyOf i l s = .ok u ∧ Executed i l s u ∧ t = u.succeed) := by
  unfold engineTurn at h
  split at h
  · next hl => exact .inl ⟨hl, by simpa using h.symm⟩
  · next l hl =>
    split at h
    · next i hd => exact .inr (.inr ⟨l, i, hl, hd, exec_cases hl h⟩)
    · next e hd => exact .inr (.inl ⟨l, e, hl, hd, by simpa [State.rejectWord] using h.symm⟩)

/-- The engine's turn leaves no command in flight and the coming events alone, and a command in flight leaves `DONE` or `ERR`
(45_commands.md R115). -/
theorem engineTurn_completes {s t : State} (h : engineTurn s = .next t) :
    t.inflight = none ∧ t.script = s.script ∧ (s.inflight.isSome = true → t.status.done = true ∨ t.status.err = true) := by
  rcases engineTurn_cases h with ⟨hn, rfl⟩ | ⟨l, e, -, -, rfl⟩ | ⟨l, i, -, -, ⟨e, -, rfl⟩ | ⟨u, -, hx, rfl⟩⟩
  · exact ⟨hn, rfl, by simp [hn]⟩
  · exact ⟨rfl, rfl, fun _ => .inr rfl⟩
  · exact ⟨rfl, rfl, fun _ => .inr rfl⟩
  · exact ⟨rfl, hx.untouched.1, fun _ => .inl rfl⟩

/-- Everything a host write can do (20_memory.md R48, R50). -/
theorem busWrite_cases (n : Width) (off : Nat) (v : Word) (s : State) :
    (accessOk true n off = false ∧ s.busWrite n off v = s.answer .writeError) ∨
    (accessOk true n off = true ∧ s.inflight.isSome = true ∧
      s.busWrite n off v = { s with status := { s.status with ovr := true } }.answer .writeOk) ∨
    (accessOk true n off = true ∧ s.inflight = none ∧
      ((∃ r, regAt off = some r ∧ s.busWrite n off v = (s.writeReg r v).answer .writeOk) ∨
        (regAt off = none ∧
          s.busWrite n off v = (s.setMem (s.mem.writeRun off (leBytes n.bytes v.toNat))).answer .writeOk))) := by
  unfold State.busWrite
  by_cases ha : accessOk true n off = false
  · exact .inl ⟨ha, by rw [if_pos ha]⟩
  · rw [if_neg ha]
    have ha : accessOk true n off = true := by simpa using ha
    by_cases hb : s.busy = true
    · exact .inr (.inl ⟨ha, hb, by rw [if_pos hb]⟩)
    · rw [if_neg hb]
      have hn : s.inflight = none := by simpa [State.busy] using hb
      refine .inr (.inr ⟨ha, hn, ?_⟩)
      cases hr : regAt off with
      | some r => exact .inl ⟨r, rfl, rfl⟩
      | none => exact .inr ⟨rfl, rfl⟩

/-- A host write never replaces what a command in flight has latched (20_memory.md R59). -/
theorem busWrite_inflight {s : State} {l : Latch} (hl : s.inflight = some l) (n : Width) (off : Nat) (v : Word) :
    (s.busWrite n off v).inflight = some l := by
  rcases busWrite_cases n off v s with ⟨-, h⟩ | ⟨-, -, h⟩ | ⟨-, hn, -⟩
  · rw [h]; exact hl
  · rw [h]; exact hl
  · rw [hl] at hn; cases hn

/-- A read changes only the answer and the count of draws (20_memory.md R50, R51). -/
theorem busRead_eq (n : Width) (off : Nat) (s : State) :
    ∃ r d, s.busRead n off = { s with bus := some r, draws := d } := by
  unfold State.busRead
  split
  · exact ⟨_, _, rfl⟩
  · split
    · exact ⟨_, _, rfl⟩
    · exact ⟨_, _, rfl⟩

/-- A property every step keeps, from what each event does. The state the event happens in has the event taken off its script. -/
theorem step_induction {P : State → Prop} {s t : State} (h : step s = .next t) (hs : P s)
    (hscript : ∀ s : State, ∀ es, P s → P { s with script := es })
    (hbus : ∀ s : State, ∀ r d, P s → P { s with bus := r, draws := d })
    (hturn : ∀ s t : State, P s → engineTurn s = .next t → P t)
    (hwrite : ∀ (s : State) n off v, P s → P (s.busWrite n off v))
    (hreset : ∀ (s : State) cs, P s → P (s.resetEvent cs)) : P t := by
  unfold step at h
  split at h
  · exact hturn s t hs h
  · next e rest he =>
    have hs' := hscript s rest hs
    cases e with
    | read n off =>
      simp only [State.event, Host.Outcome.next.injEq] at h
      obtain ⟨r, d, hr⟩ := busRead_eq n off.toNat { s with script := rest }
      rw [← h, hr]
      exact hbus _ _ _ hs'
    | write n off v =>
      simp only [State.event, Host.Outcome.next.injEq] at h
      rw [← h]; exact hwrite _ _ _ _ hs'
    | engine => exact hturn _ _ hs' h
    | reset cs =>
      simp only [State.event, Host.Outcome.next.injEq] at h
      rw [← h]; exact hreset _ _ hs'

end Sys2Proof.Machine
end

