-- ==== Sys2Proof/Laws/Bus.lean ====
section
/-! SUPPORT. Bus accesses: the aperture map as inequalities, and what an access that is answered does. -/

namespace Sys2Proof.Machine

/-! ### The map -/

/-- The registers lie at the multiples of 4 of two ranges (10_state.md R15). -/
theorem regAt_isSome (off : Nat) : (regAt off).isSome = true ↔ off % 4 = 0 ∧ (off ≤ 0x060 ∨ (0x080 ≤ off ∧ off ≤ 0x0BF)) := by
  by_cases h : off < 0x64
  · interval_cases off <;> decide
  · unfold regAt
    split
    all_goals first | omega | skip
    by_cases h1 : 0x80 ≤ off <;> by_cases h2 : off < 0x80 + 0x40 <;> by_cases h3 : off % 4 = 0 <;> simp [inRange, h1, h2, h3] <;> omega

theorem regAt_none {off : Nat} (h : 0x1000 ≤ off) : regAt off = none := by
  cases hr : regAt off with
  | none => rfl
  | some r =>
    have := (regAt_isSome off).1 (by simp [hr])
    omega

theorem inRange_iff {base len off : Nat} : inRange base len off = true ↔ base ≤ off ∧ off < base + len := by simp [inRange]

/-- The region of every offset (20_memory.md R52). -/
theorem regionOf_cases (off : Nat) :
    (off ≤ 0xFFF ∧ regionOf off = some .registers) ∨
    (0x1000 ≤ off ∧ off ≤ 0x117F ∧ regionOf off = some .src) ∨
    (0x2000 ≤ off ∧ off ≤ 0x22FF ∧ regionOf off = some .work) ∨
    (0x3000 ≤ off ∧ off ≤ 0x317F ∧ regionOf off = some .pred) ∨
    (0x5000 ≤ off ∧ off ≤ 0x517F ∧ regionOf off = some .probePred) ∨
    (0x100000 ≤ off ∧ off ≤ 0x11FDFF ∧ regionOf off = some .modeStore) ∨
    (((0x200000 ≤ off ∧ off ≤ 0x3FDFFF) ∨ (0x400000 ≤ off ∧ off ≤ 0x47F7FF) ∨ (0x480000 ≤ off ∧ off ≤ 0x4FF7FF)) ∧
      regionOf off = some .dnt) ∨
    (¬(off ≤ 0xFFF ∨ (0x1000 ≤ off ∧ off ≤ 0x117F) ∨ (0x2000 ≤ off ∧ off ≤ 0x22FF) ∨ (0x3000 ≤ off ∧ off ≤ 0x317F) ∨
        (0x5000 ≤ off ∧ off ≤ 0x517F) ∨ (0x100000 ≤ off ∧ off ≤ 0x11FDFF) ∨ (0x200000 ≤ off ∧ off ≤ 0x3FDFFF) ∨
        (0x400000 ≤ off ∧ off ≤ 0x47F7FF) ∨ (0x480000 ≤ off ∧ off ≤ 0x4FF7FF)) ∧
      regionOf off = none) := by
  unfold regionOf
  repeat' split
  all_goals simp only [inRange_iff, srcYBase, workBase, predBase, probeBase, modeBase, dntYBase, dntCbBase, dntCrBase] at *
  all_goals simp
  all_goals omega

/-- An offset that is a byte of a memory is not below the windows (20_memory.md R52). -/
theorem isMemory_iff (off : Nat) :
    isMemory off = true ↔
      (0x1000 ≤ off ∧ off ≤ 0x117F) ∨ (0x2000 ≤ off ∧ off ≤ 0x22FF) ∨ (0x3000 ≤ off ∧ off ≤ 0x317F) ∨
        (0x5000 ≤ off ∧ off ≤ 0x517F) ∨ (0x100000 ≤ off ∧ off ≤ 0x11FDFF) ∨ (0x200000 ≤ off ∧ off ≤ 0x3FDFFF) ∨
        (0x400000 ≤ off ∧ off ≤ 0x47F7FF) ∨ (0x480000 ≤ off ∧ off ≤ 0x4FF7FF) := by
  rcases regionOf_cases off with ⟨a, h⟩ | ⟨a, b, h⟩ | ⟨a, b, h⟩ | ⟨a, b, h⟩ | ⟨a, b, h⟩ | ⟨a, b, h⟩ | ⟨a, h⟩ | ⟨a, h⟩ <;>
    simp [isMemory, h] <;> omega

/-! ### Accesses -/

/-- A read that is answered from the state (20_memory.md R46, R50). -/
theorem step_read {s : State} {n : Width} {off : BitVec 23} {rest : List Event} (hs : s.script = .read n off :: rest)
    (ha : accessOk false n off.toNat = true) (hb : s.inflight = none ∨ busyReadable off.toNat = true) :
    step s = .next { s with script := rest, bus := some (.readOk (s.readValue n off.toNat)) } := by
  simp only [step, hs, State.event, State.busRead, ha, State.busy]
  have : (s.inflight.isSome && !busyReadable off.toNat) = false := by rcases hb with h | h <;> simp [h]
  simp [this]; rfl

/-- A write to an idle engine that gets no bus error (20_memory.md R46). -/
theorem step_write {s : State} {n : Width} {off : BitVec 23} {v : Word} {rest : List Event}
    (hs : s.script = .write n off v :: rest) (ha : accessOk true n off.toNat = true) (hb : s.inflight = none) :
    step s = .next (match regAt off.toNat with
      | some r => (({ s with script := rest } : State).writeReg r v).answer .writeOk
      | none =>
        (({ s with script := rest } : State).setMem (s.mem.writeRun off.toNat (leBytes n.bytes v.toNat))).answer .writeOk) := by
  simp only [step, hs, State.event, State.busWrite, ha, State.busy, hb]
  simp
  all_goals rfl

/-- A window read, byte by byte (20_memory.md R46). -/
theorem windowValue_spec (s : State) (n : Width) (off : Nat) :
    (∀ k, k < n.bytes → (s.windowValue n off).extractLsb' (8 * k) 8 = s.mem.readByte (off + k)) ∧
      (s.windowValue n off).toNat < 256 ^ n.bytes := by
  have h1 := leValue_lt (s.mem.readRun off n.bytes)
  simp only [Memory.length_readRun] at h1
  have h2 : 256 ^ n.bytes ≤ 2 ^ 32 := by cases n <;> simp [Width.bytes]
  have hv : (s.windowValue n off).toNat = leValue (s.mem.readRun off n.bytes) := by
    simp only [State.windowValue, BitVec.toNat_ofNat]; exact Nat.mod_eq_of_lt (by omega)
  refine ⟨fun k hk => ?_, by rw [hv]; exact h1⟩
  apply BitVec.eq_of_toNat_eq
  rw [BitVec.extractLsb'_toNat, hv, Nat.shiftRight_eq_div_pow, pow_mul]
  have := leValue_byte (bs := s.mem.readRun off n.bytes) (k := k) (by simpa using hk)
  rw [Memory.getD_readRun _ hk] at this
  exact this

end Sys2Proof.Machine
end

