-- ==== Sys2Proof/Laws/Commit.lean ====
section
/-! SUPPORT. The commit of a macroblock: every byte of the memories after it (44_selection.md R108 to R111), and what `PREDICT_MB`
and the probes do when their checks pass. -/

namespace Sys2Proof.Machine

/-! ### The commands that pass their checks -/

/-- `PREDICT_MB` that passes its checks commits its evaluation and succeeds (45_commands.md R119). -/
theorem exec_predictMb {s : State} {l : Latch} (h : s.readyFor l) :
    exec .predictMb s = .next (s.commit l.bsrc l.idx.toNat (s.evaluate l.bsrc l.idx.toNat)).succeed := by
  rw [exec_inflight h.1]; simp [bodyOf, State.predictMb, checkMb_ready h]

/-- A 4x4 probe that passes its checks (45_commands.md R120, R121). -/
theorem exec_probe4 {s : State} {l : Latch} (h : s.readyFor l) (m : I4Mode) (k : Nat) :
    exec (m.probe k) s =
      .next (s.recordProbe l.idx.toNat 0 m.num k (s.probe4 l.bsrc l.idx.toNat m k)).succeed := by
  rw [exec_inflight h.1]; simp [State.probe, checkMb_ready h]

/-- A 16x16 probe that passes its checks (45_commands.md R120, R122). -/
theorem exec_probe16 {s : State} {l : Latch} (h : s.readyFor l) (m : I16Mode) :
    exec m.probe s = .next (s.recordProbe l.idx.toNat 1 m.num 0 (s.probe16 l.idx.toNat m)).succeed := by
  rw [exec_inflight h.1]; simp [State.probe, checkMb_ready h]

/-- A chroma probe that passes its checks (45_commands.md R120, R123). -/
theorem exec_probeC {s : State} {l : Latch} (h : s.readyFor l) (m : CMode) :
    exec m.probe s = .next (s.recordProbe l.idx.toNat 2 m.num 0 (s.probeC l.idx.toNat m)).succeed := by
  rw [exec_inflight h.1]; simp [State.probe, checkMb_ready h]

/-! ### The decision -/

/-- 16x16 is chosen unless 4x4 is strictly cheaper (R106). -/
theorem Evaluation.isI16_iff (e : Evaluation) : e.isI16 = true ↔ ¬costOf4 e.i4 < e.i16.cost := by
  unfold Evaluation.isI16 isI16Of Evaluation.cost4
  by_cases h : costOf4 e.i4 < e.i16.cost <;> simp [h]

/-- The winner's cost (R106). -/
theorem Evaluation.costL_eq (e : Evaluation) : e.costL = if costOf4 e.i4 < e.i16.cost then costOf4 e.i4 else e.i16.cost := by
  unfold Evaluation.costL Evaluation.cost4
  have := e.isI16_iff
  by_cases h : costOf4 e.i4 < e.i16.cost <;> simp_all

/-- PCM, when a cost exceeds its threshold (R107). -/
theorem Evaluation.pcm_iff (e : Evaluation) : e.pcm = true ↔ 2000 < e.costL ∨ 1000 < e.c.costCb + e.c.costCr := by
  unfold Evaluation.pcm pcmOf
  rw [Bool.or_eq_true, decide_eq_true_iff, decide_eq_true_iff]
  rfl

/-- A flag as a number. -/
theorem bitAt_eq (b : Bool) (k : Nat) : bitAt b k = b.toNat * 2 ^ k := by cases b <;> simp [bitAt]

/-- `RESULT` as a number (R112). -/
theorem toNat_resultWord {e : Evaluation} (h : e.Bounded) :
    (resultWord e.isI16 e.pcm e.i16.mode e.c.mode).toNat =
      1 + e.isI16.toNat * 2 + e.pcm.toNat * 4 + e.i16.mode * 16 + e.c.mode * 256 := by
  have := h.mode16
  have := h.modeC
  have := Bool.toNat_le e.isI16
  have := Bool.toNat_le e.pcm
  simp only [resultWord, bitAt_eq, BitVec.toNat_ofNat]
  omega

/-! ### Lengths -/

@[simp] theorem length_recordBytes (e : Evaluation) : e.recordBytes.length = 16 := by simp [Evaluation.recordBytes]

theorem length_flatten_const {α : Type} {n : Nat} {ls : List (List α)} (h : ∀ l ∈ ls, l.length = n) :
    ls.flatten.length = n * ls.length := by
  induction ls with
  | nil => simp
  | cons a ls ih =>
    simp only [List.flatten_cons, List.length_append, List.length_cons]
    rw [h a (by simp), ih fun l hl => h l (by simp [hl])]; ring

/-- An element of a list of lists of one length. -/
theorem getD_flatten_const {α : Type} {n : Nat} {ls : List (List α)} (h : ∀ l ∈ ls, l.length = n) {i j : Nat} (hj : j < n)
    (d : α) : ls.flatten.getD (n * i + j) d = (ls.getD i []).getD j d := by
  induction ls generalizing i with
  | nil => simp
  | cons a ls ih =>
    have ha := h a (by simp)
    cases i with
    | zero => simp only [List.flatten_cons, Nat.mul_zero, Nat.zero_add, List.getD_cons_zero]
              exact List.getD_append _ _ _ _ (by omega)
    | succ i =>
      rw [List.flatten_cons, List.getD_append_right _ _ _ _ (by rw [ha, Nat.mul_succ]; omega), List.getD_cons_succ,
        ← ih fun l hl => h l (by simp [hl])]
      congr 1
      rw [ha, Nat.mul_succ]; omega

/-- Every value of WORK is two bytes (R109). -/
theorem length_workValues {pcm : Bool} {src pred : List Byte} :
    ∀ l ∈ List.zipWith (fun a b => leBytes 2 (workValue pcm a b).toNat) src pred, l.length = 2 := by
  intro l hl
  obtain ⟨i, hi, rfl⟩ := List.getElem_of_mem hl
  simp

theorem length_workBytes {pcm : Bool} {src pred : List Byte} (h : src.length = pred.length) :
    (workBytes pcm src pred).length = 2 * src.length := by
  rw [workBytes, length_flatten_const length_workValues]
  simp [h]

/-- The two bytes of a value of WORK (R109). -/
theorem getD_workBytes {pcm : Bool} {src pred : List Byte} (h : src.length = pred.length) {i j : Nat} (hi : i < src.length)
    (hj : j < 2) :
    (workBytes pcm src pred).getD (2 * i + j) 0#8 =
      BitVec.ofNat 8 ((workValue pcm (src.getD i 0#8) (pred.getD i 0#8)).toNat / 256 ^ j) := by
  rw [workBytes, getD_flatten_const length_workValues hj]
  have : (List.zipWith (fun a b => leBytes 2 (workValue pcm a b).toNat) src pred).getD i [] =
      leBytes 2 (workValue pcm (src.getD i 0#8) (pred.getD i 0#8)).toNat := by
    simp [List.getD_eq_getElem?_getD, hi, h ▸ hi]
  rw [this, getD_leBytes hj]

theorem length_dntSource {pcm b : Bool} {src pred : List Byte} (h : src.length = pred.length) :
    (dntSource pcm b src pred).length = src.length := by
  unfold dntSource; split <;> simp [h]

/-! ### The rows of a macroblock -/

/-- Macroblock `n` lies in the frame, and the frame within the limits. -/
structure State.InFrame (s : State) (n : Nat) : Prop where
  cols : 0 < s.mbCols.toNat
  col : 16 * mbCol s.mbCols.toNat n + 16 ≤ 16 * s.mbCols.toNat
  width : 16 * s.mbCols.toNat ≤ 1920
  row : 16 * mbRow s.mbCols.toNat n + 16 ≤ 1088
  index : n < 8160

theorem inFrame_of_ready {s : State} {n : Nat} (hg : s.geometryOk) (hn : n < s.mbCount.toNat) : s.InFrame n := by
  obtain ⟨h1, h2, h3, -, -⟩ := hg
  rw [h1] at hn
  have hc : 0 < s.mbCols.toNat := Nat.pos_of_mul_pos_right (Nat.zero_lt_of_lt hn)
  have hm := Nat.mod_lt n hc
  have hd : n / s.mbCols.toNat < s.mbRows.toNat := Nat.div_lt_of_lt_mul hn
  have hp : s.mbCols.toNat * s.mbRows.toNat ≤ 120 * 68 :=
    Nat.mul_le_mul (by simp only [Config.maxW] at h2; omega) (by simp only [Config.maxH] at h3; omega)
  simp only [Config.maxW, Config.maxH] at h2 h3
  exact ⟨hc, by simp only [mbCol]; omega, h2, by simp only [mbRow]; omega, by omega⟩

/-- A row of a macroblock lies in its plane: `u` is the block's size, `w` its stride and `h` the plane's height. -/
theorem row_in_plane {u w h x0 y0 y : Nat} (hx : x0 + u ≤ w) (hy : y0 + u ≤ h) (hr : y < u) :
    y0 * w + x0 + y * w + u ≤ h * w := by
  have : (y0 + y + 1) * w ≤ h * w := Nat.mul_le_mul_right _ (by omega)
  have : (y0 + y + 1) * w = y0 * w + y * w + w := by ring
  omega

/-- The luma rows of macroblock `n` lie in the plane (20_memory.md R52, R53). -/
theorem rowY_in_plane {s : State} {n y : Nat} (h : s.InFrame n) (hy : y < 16) :
    planeAt dntYBase s.strideY (s.lumaX n) (s.lumaY n) + y * s.strideY + 16 ≤ 0x3FE000 := by
  have := row_in_plane (u := 16) (w := s.strideY) (h := 1088) (x0 := s.lumaX n) (y0 := s.lumaY n) (y := y)
    (by have := h.col; simp only [State.lumaX, State.strideY]; omega) h.row hy
  have : 1088 * s.strideY ≤ 1088 * 1920 := Nat.mul_le_mul_left _ h.width
  simp only [planeAt, dntYBase]
  omega

/-- The chroma rows of macroblock `n` lie in their plane (20_memory.md R52, R53). -/
theorem rowC_in_plane {s : State} {n y : Nat} (base : Nat) (h : s.InFrame n) (hy : y < 8) :
    planeAt base s.strideC (s.chromaX n) (s.chromaY n) + y * s.strideC + 8 ≤ base + 0x7F800 := by
  have := row_in_plane (u := 8) (w := s.strideC) (h := 544) (x0 := s.chromaX n) (y0 := s.chromaY n) (y := y)
    (by have := h.col; simp only [State.chromaX, State.strideC]; omega)
    (by have := h.row; simp only [State.chromaY]; omega) hy
  have : 544 * s.strideC ≤ 544 * 960 :=
    Nat.mul_le_mul_left _ (by have := h.width; simp only [State.strideC]; omega)
  simp only [planeAt]
  omega

/-! ### The memories after a commit -/

theorem wf_commitDnt {s : State} {b : Bool} {n : Nat} {e : Evaluation} {m : Memory} (h : m.wf) : (s.commitDnt b n e m).wf :=
  Memory.wf_writeRows (Memory.wf_writeRows (Memory.wf_writeRows h))

theorem wf_commitMem {s : State} {b : Bool} {n : Nat} {e : Evaluation} (h : s.mem.wf) : (s.commitMem b n e).wf :=
  Memory.wf_writeRun (wf_commitDnt (Memory.wf_writeRun (Memory.wf_writeRun h)))

/-- The commit of the DNT leaves everything below the planes alone. -/
theorem readByte_commitDnt_low {s : State} {b : Bool} {n a : Nat} {e : Evaluation} {m : Memory} (ha : a < dntYBase) :
    (s.commitDnt b n e m).readByte a = m.readByte a := by
  simp only [dntYBase] at ha
  unfold State.commitDnt
  rw [Memory.readByte_writeRows_other, Memory.readByte_writeRows_other, Memory.readByte_writeRows_other]
  all_goals intro y _; left; simp only [planeAt, dntYBase, dntCbBase, dntCrBase]; omega

/-- A byte that is no sample of macroblock `n` is left alone by the commit of the DNT (R110). -/
theorem readByte_commitDnt_other {s : State} {b : Bool} {n a : Nat} {e : Evaluation} {m : Memory}
    (hy : ∀ x y, x < 16 → y < 16 → a ≠ planeAt dntYBase s.strideY (s.lumaX n) (s.lumaY n) + y * s.strideY + x)
    (hb : ∀ x y, x < 8 → y < 8 → a ≠ planeAt dntCbBase s.strideC (s.chromaX n) (s.chromaY n) + y * s.strideC + x)
    (hr : ∀ x y, x < 8 → y < 8 → a ≠ planeAt dntCrBase s.strideC (s.chromaX n) (s.chromaY n) + y * s.strideC + x) :
    (s.commitDnt b n e m).readByte a = m.readByte a := by
  have outside : ∀ {base k u : Nat}, (∀ x, x < u → a ≠ base + k + x) → a < base + k ∨ base + k + u ≤ a := by
    intro base k u h
    by_contra hc
    simp only [not_or, not_lt, not_le] at hc
    exact h (a - (base + k)) (by omega) (by omega)
  unfold State.commitDnt
  rw [Memory.readByte_writeRows_other, Memory.readByte_writeRows_other, Memory.readByte_writeRows_other]
  · exact fun y h => outside fun x hx => hy x y hx h
  · exact fun y h => outside fun x hx => hb x y hx h
  · exact fun y h => outside fun x hx => hr x y hx h

/-- The luma samples the DNT receives (R110). -/
theorem readByte_commitDnt_y {s : State} {b : Bool} {n x y : Nat} {e : Evaluation} {m : Memory} (hf : s.InFrame n)
    (he : e.Bounded) (hm : m.wf) (hx : x < 16) (hy : y < 16) :
    (s.commitDnt b n e m).readByte (planeAt dntYBase s.strideY (s.lumaX n) (s.lumaY n) + y * s.strideY + x) =
      (dntSource e.pcm b s.srcY e.predY).getD (16 * y + x) 0#8 := by
  have hin := rowY_in_plane hf hy
  unfold State.commitDnt
  rw [Memory.readByte_writeRows_other, Memory.readByte_writeRows_other, Memory.readByte_writeRows_self hm _ _ hx hy]
  · rw [length_dntSource] <;> simp [he.length_predY]
  · have := hf.cols; simp only [State.strideY]; omega
  · intro z _; left; simp only [planeAt, dntCbBase] at *; omega
  · intro z _; left; simp only [planeAt, dntCrBase] at *; omega

/-- The Cb samples the DNT receives (R110). -/
theorem readByte_commitDnt_cb {s : State} {b : Bool} {n x y : Nat} {e : Evaluation} {m : Memory} (hf : s.InFrame n)
    (he : e.Bounded) (hm : m.wf) (hx : x < 8) (hy : y < 8) :
    (s.commitDnt b n e m).readByte (planeAt dntCbBase s.strideC (s.chromaX n) (s.chromaY n) + y * s.strideC + x) =
      (dntSource e.pcm b s.srcCb e.c.predCb).getD (8 * y + x) 0#8 := by
  have hin := rowC_in_plane dntCbBase hf hy
  unfold State.commitDnt
  rw [Memory.readByte_writeRows_other, Memory.readByte_writeRows_self (Memory.wf_writeRows hm) _ _ hx hy]
  · rw [length_dntSource] <;> simp [he.predCb]
  · have := hf.cols; simp only [State.strideC]; omega
  · intro z _; left; simp only [planeAt, dntCrBase, dntCbBase] at *; omega

/-- The Cr samples the DNT receives (R110). -/
theorem readByte_commitDnt_cr {s : State} {b : Bool} {n x y : Nat} {e : Evaluation} {m : Memory} (hf : s.InFrame n)
    (he : e.Bounded) (hm : m.wf) (hx : x < 8) (hy : y < 8) :
    (s.commitDnt b n e m).readByte (planeAt dntCrBase s.strideC (s.chromaX n) (s.chromaY n) + y * s.strideC + x) =
      (dntSource e.pcm b s.srcCr e.c.predCr).getD (8 * y + x) 0#8 := by
  unfold State.commitDnt
  rw [Memory.readByte_writeRows_self (Memory.wf_writeRows (Memory.wf_writeRows hm)) _ _ hx hy]
  · rw [length_dntSource] <;> simp [he.predCr]
  · have := hf.cols; simp only [State.strideC]; omega

/-- A byte of PRED after the commit (R108). -/
theorem readByte_commitMem_pred {s : State} {b : Bool} {n i : Nat} {e : Evaluation} (he : e.Bounded) (hm : s.mem.wf)
    (hi : i < 384) : (s.commitMem b n e).readByte (predBase + i) = e.predBytes.getD i 0#8 := by
  unfold State.commitMem
  rw [Memory.readByte_writeRun_other (by left; simp only [predBase, modeBase]; omega),
    readByte_commitDnt_low (by simp only [predBase, dntYBase]; omega),
    Memory.readByte_writeRun_other (by right; rw [length_workBytes] <;> simp [he.length_predBytes, predBase, workBase]; omega),
    Memory.readByte_writeRun_self hm (by rw [he.length_predBytes]; exact hi)]

/-- A byte of WORK after the commit (R109). -/
theorem readByte_commitMem_work {s : State} {b : Bool} {n i j : Nat} {e : Evaluation} (he : e.Bounded) (hm : s.mem.wf)
    (hi : i < 384) (hj : j < 2) :
    (s.commitMem b n e).readByte (workBase + (2 * i + j)) =
      BitVec.ofNat 8 ((workValue e.pcm (s.srcBytes.getD i 0#8) (e.predBytes.getD i 0#8)).toNat / 256 ^ j) := by
  unfold State.commitMem
  rw [Memory.readByte_writeRun_other (by left; simp only [workBase, modeBase]; omega),
    readByte_commitDnt_low (by simp only [workBase, dntYBase]; omega),
    Memory.readByte_writeRun_self (Memory.wf_writeRun hm) (by
      rw [length_workBytes] <;> simp [he.length_predBytes]; omega),
    getD_workBytes (by simp [he.length_predBytes]) (by simpa using hi) hj]

/-- A byte of record `n` of the mode store after the commit (R111). -/
theorem readByte_commitMem_record {s : State} {b : Bool} {n i : Nat} {e : Evaluation} (hm : s.mem.wf) (hi : i < 16) :
    (s.commitMem b n e).readByte (modeBase + 16 * n + i) = e.recordBytes.getD i 0#8 :=
  Memory.readByte_writeRun_self (wf_commitDnt (Memory.wf_writeRun (Memory.wf_writeRun hm))) (by simpa using hi)

/-- A byte of the DNT after the commit is the one the commit of the DNT leaves. -/
theorem readByte_commitMem_dnt {s : State} {b : Bool} {n a : Nat} {e : Evaluation} (hn : n < 8160) (ha : dntYBase ≤ a) :
    (s.commitMem b n e).readByte a =
      (s.commitDnt b n e
        (Memory.writeRun workBase (workBytes e.pcm s.srcBytes e.predBytes) (Memory.writeRun predBase e.predBytes s.mem))).readByte
        a := by
  unfold State.commitMem
  exact Memory.readByte_writeRun_other (by right; simp only [length_recordBytes, modeBase, dntYBase] at *; omega)

/-- Every other byte is as before (R108 to R111). -/
theorem readByte_commitMem_other {s : State} {b : Bool} {n a : Nat} {e : Evaluation} (he : e.Bounded)
    (hp : ¬(0x003000 ≤ a ∧ a < 0x003180)) (hw : ¬(0x002000 ≤ a ∧ a < 0x002300))
    (hrec : ¬(0x100000 + 16 * n ≤ a ∧ a < 0x100000 + 16 * n + 16))
    (hy : ∀ x y, x < 16 → y < 16 → a ≠ planeAt dntYBase s.strideY (s.lumaX n) (s.lumaY n) + y * s.strideY + x)
    (hb : ∀ x y, x < 8 → y < 8 → a ≠ planeAt dntCbBase s.strideC (s.chromaX n) (s.chromaY n) + y * s.strideC + x)
    (hr : ∀ x y, x < 8 → y < 8 → a ≠ planeAt dntCrBase s.strideC (s.chromaX n) (s.chromaY n) + y * s.strideC + x) :
    (s.commitMem b n e).readByte a = s.mem.readByte a := by
  unfold State.commitMem
  rw [Memory.readByte_writeRun_other (by simp only [length_recordBytes, modeBase]; omega), readByte_commitDnt_other hy hb hr,
    Memory.readByte_writeRun_other (by
      rw [length_workBytes (by simp [he.length_predBytes])]; simp only [length_srcBytes, workBase]; omega),
    Memory.readByte_writeRun_other (by simp only [he.length_predBytes, predBase]; omega)]

/-- Every cell after the commit was there before or lies in one of the memories the commit writes (R108 to R111). -/
theorem mem_commitMem {s : State} {b : Bool} {n : Nat} {e : Evaluation} {c : Host.Cell} (he : e.Bounded) (hf : s.InFrame n)
    (h : c ∈ s.commitMem b n e) :
    c ∈ s.mem ∨ (0x002000 ≤ c.1 ∧ c.1 < 0x002300) ∨ (0x003000 ≤ c.1 ∧ c.1 < 0x003180) ∨
      (0x100000 ≤ c.1 ∧ c.1 < 0x11FE00) ∨ (0x200000 ≤ c.1 ∧ c.1 < 0x3FE000) ∨ (0x400000 ≤ c.1 ∧ c.1 < 0x47F800) ∨
      (0x480000 ≤ c.1 ∧ c.1 < 0x4FF800) := by
  have hi := hf.index
  unfold State.commitMem at h
  rcases Memory.mem_writeRun h with ⟨h1, h2, -⟩ | h
  · simp only [length_recordBytes, modeBase] at h1 h2; omega
  unfold State.commitDnt at h
  rcases Memory.mem_writeRows h with ⟨y, hy, h1, h2⟩ | h
  · have := rowC_in_plane dntCrBase hf hy
    have h3 : dntCrBase ≤ planeAt dntCrBase s.strideC (s.chromaX n) (s.chromaY n) := by simp only [planeAt]; omega
    simp only [dntCrBase] at *; omega
  rcases Memory.mem_writeRows h with ⟨y, hy, h1, h2⟩ | h
  · have := rowC_in_plane dntCbBase hf hy
    have h3 : dntCbBase ≤ planeAt dntCbBase s.strideC (s.chromaX n) (s.chromaY n) := by simp only [planeAt]; omega
    simp only [dntCbBase] at *; omega
  rcases Memory.mem_writeRows h with ⟨y, hy, h1, h2⟩ | h
  · have := rowY_in_plane hf hy
    have h3 : dntYBase ≤ planeAt dntYBase s.strideY (s.lumaX n) (s.lumaY n) := by simp only [planeAt]; omega
    simp only [dntYBase] at *; omega
  rcases Memory.mem_writeRun h with ⟨h1, h2, -⟩ | h
  · rw [length_workBytes (by simp [he.length_predBytes])] at h2
    simp only [length_srcBytes, workBase] at h1 h2; omega
  rcases Memory.mem_writeRun h with ⟨h1, h2, -⟩ | h
  · simp only [he.length_predBytes, predBase] at h1 h2; omega
  exact .inl h

end Sys2Proof.Machine
end

