-- ==== Sys2Proof/Laws/Decode.lean ====
section
/-! SUPPORT. The fields of a command word: a word is its fields, and a `PROBE` word has the fields it was made from
(30_encoding.md R61). -/

namespace Sys2Proof

/-- A word as its fields. -/
theorem word_eq_fields (w : Word) :
    w.toNat = fieldOp w + 16 * fieldKind w + 64 * fieldRsv0 w + 256 * fieldMode w + 4096 * fieldBlk w + 65536 * fieldRsv1 w := by
  have := w.isLt
  simp only [fieldOp, fieldRsv0, fieldRsv1, fieldKind, fieldMode, fieldBlk, bitField]
  omega

/-- A word as its opcode and the rest. -/
theorem word_eq_op (w : Word) : w.toNat = fieldOp w + 16 * bitField w 4 28 := by
  have := w.isLt
  simp only [fieldOp, bitField]
  omega

theorem fieldBlk_lt (w : Word) : fieldBlk w < 16 := by unfold fieldBlk bitField; omega

theorem fieldKind_lt (w : Word) : fieldKind w < 4 := by unfold fieldKind bitField; omega

/-- The bits of a field, as a number. -/
theorem extractLsb'_toNat_bitField (w : Word) (lo len : Nat) : (w.extractLsb' lo len).toNat = bitField w lo len := by
  simp only [BitVec.extractLsb'_toNat, Nat.shiftRight_eq_div_pow, bitField]

theorem getLsbD_eq_div (w : Word) (k : Nat) : w.getLsbD k = decide (w.toNat / 2 ^ k % 2 = 1) := by
  simp [BitVec.getLsbD, Nat.testBit_eq_decide_div_mod_eq]

/-- The fields of a `PROBE` word. -/
theorem probeWord_fields {kind mode blk : Nat} (hk : kind < 4) (hm : mode < 16) (hb : blk < 16) :
    fieldOp (probeWord kind mode blk) = 3 ∧ fieldRsv0 (probeWord kind mode blk) = 0 ∧
      fieldRsv1 (probeWord kind mode blk) = 0 ∧ fieldKind (probeWord kind mode blk) = kind ∧
      fieldMode (probeWord kind mode blk) = mode ∧ fieldBlk (probeWord kind mode blk) = blk := by
  simp only [fieldOp, fieldRsv0, fieldRsv1, fieldKind, fieldMode, fieldBlk, bitField, probeWord, BitVec.toNat_ofNat]
  omega

/-- A word with opcode 3 and zeros in its reserved fields is the `PROBE` word of its fields. -/
theorem probeWord_of_fields {w : Word} {k : Nat} (ho : fieldOp w = 3) (h0 : fieldRsv0 w = 0) (h1 : fieldRsv1 w = 0)
    (hk : fieldKind w = k) : probeWord k (fieldMode w) (fieldBlk w) = w := by
  apply BitVec.eq_of_toNat_eq
  have := word_eq_fields w
  have := w.isLt
  simp only [probeWord, BitVec.toNat_ofNat]
  omega

end Sys2Proof
end

