-- ==== Sys2Proof/Laws/Neighbours.lean ====
section
/-! SUPPORT. Neighbours and borders (40_neighbours.md): the availabilities as inequalities, where the samples of a block lie, and
what a border is made of. -/

namespace Sys2Proof.Machine

/-! ### Macroblocks -/

theorem mbAvail_up (c n : Nat) : (mbAvail c n).up = true ↔ 0 < n / c := by simp [mbAvail]

theorem mbAvail_left (c n : Nat) : (mbAvail c n).left = true ↔ 0 < n % c := by simp [mbAvail]

theorem mbAvail_upright (c n : Nat) : (mbAvail c n).upright = true ↔ 0 < n / c ∧ n % c + 1 < c := by simp [mbAvail]

theorem mbAvail_upleft (c n : Nat) : (mbAvail c n).upleft = true ↔ 0 < n / c ∧ 0 < n % c := by simp [mbAvail]

theorem mbAvail_right (c n : Nat) : (mbAvail c n).right = true ↔ n % c + 1 < c := by simp [mbAvail]

/-- The column and the row of a macroblock given by them (R69). -/
theorem mb_of_col_row {c q r : Nat} (h : r < c) : (c * q + r) % c = r ∧ (c * q + r) / c = q := by
  constructor
  · rw [Nat.mul_add_mod, Nat.mod_eq_of_lt h]
  · rw [Nat.mul_add_div (by omega), Nat.div_eq_of_lt h, Nat.add_zero]

/-! ### Blocks -/

/-- A block in the left column has a left border only with its macroblock (R74). -/
theorem blkAvail_left (av : MbAvail) (k : Nat) : (blkAvail av k).left = true ↔ 0 < blkX k ∨ av.left = true := by
  simp [blkAvail]

/-- A block in the top row has an up border only with its macroblock (R74). -/
theorem blkAvail_up (av : MbAvail) (k : Nat) : (blkAvail av k).up = true ↔ 0 < blkY k ∨ av.up = true := by
  simp [blkAvail]

/-- A sample of a block in 4x4 raster order is a sample of the macroblock (R73). -/
theorem getD_subBlock {b : List Byte} {k i : Nat} (hi : i < 16) :
    (subBlock b k).getD i 0#8 = b.getD (16 * (4 * blkY k + i / 4) + (4 * blkX k + i % 4)) 0#8 := by
  rw [List.getD_eq_getElem?_getD, subBlock, List.getElem?_map, List.getElem?_range hi]
  rfl

/-! ### Borders -/

/-- A border sample at an index of its border (R77 to R79); the index -1 alone is the corner. -/
@[simp] theorem Predictor.top_natCast (p : Predictor) (i : Nat) : p.top (i : Int) = p.up.getD i 0 := by
  unfold Predictor.top
  rw [if_neg (by omega)]
  rfl

@[simp] theorem Predictor.side_natCast (p : Predictor) (i : Nat) : p.side (i : Int) = p.left.getD i 0 := by
  unfold Predictor.side
  rw [if_neg (by omega)]
  rfl

/-- A border given sample by sample. -/
theorem getD_border {n i : Nat} (f : Nat → Int) (hi : i < n) : ((List.range n).map f).getD i 0 = f i := by
  simp [List.getD, hi]

/-- Outside the macroblock a luma sample is the DNT's, whatever blocks have been visited (R75). -/
theorem lumaAt_outside {s : State} {n X Y : Nat} {intra : List (List Byte)}
    (h : ¬(s.lumaX n ≤ X ∧ X < s.lumaX n + 16 ∧ s.lumaY n ≤ Y ∧ Y < s.lumaY n + 16)) :
    s.lumaAt n intra X Y = s.dntY X Y := if_neg h

/-- A border of samples is in the range of a sample. -/
theorem sampleOf_range (b : Byte) : 0 ≤ sampleOf b ∧ sampleOf b ≤ 255 := by
  have := b.isLt
  unfold sampleOf
  omega

/-- Every sample a mode reads above the block is in the range of a sample when the border is. -/
theorem Predictor.top_range {p : Predictor} (hc : 0 ≤ p.corner ∧ p.corner ≤ 255) (hu : ∀ v ∈ p.up, 0 ≤ v ∧ v ≤ 255) (i : Int) :
    0 ≤ p.top i ∧ p.top i ≤ 255 := by
  unfold Predictor.top
  split
  · exact hc
  · rw [List.getD_eq_getElem?_getD]
    cases h : p.up[i.toNat]? with
    | none => simp
    | some v => simpa using hu v (List.mem_of_getElem? h)

/-- The same on the left. -/
theorem Predictor.side_range {p : Predictor} (hc : 0 ≤ p.corner ∧ p.corner ≤ 255) (hl : ∀ v ∈ p.left, 0 ≤ v ∧ v ≤ 255)
    (i : Int) : 0 ≤ p.side i ∧ p.side i ≤ 255 := by
  unfold Predictor.side
  split
  · exact hc
  · rw [List.getD_eq_getElem?_getD]
    cases h : p.left[i.toNat]? with
    | none => simp
    | some v => simpa using hl v (List.mem_of_getElem? h)

@[simp] theorem Predictor.transpose_top (p : Predictor) (i : Int) : p.transpose.top i = p.side i := rfl

@[simp] theorem Predictor.transpose_side (p : Predictor) (i : Int) : p.transpose.side i = p.top i := rfl

@[simp] theorem Predictor.transpose_corner (p : Predictor) : p.transpose.corner = p.corner := rfl

/-! ### Weighted averages -/

/-- The averages the modes take of samples are samples (41_luma4x4.md, the note before R80). -/
theorem avg2_range {a b : Int} (ha : 0 ≤ a ∧ a ≤ 255) (hb : 0 ≤ b ∧ b ≤ 255) : 0 ≤ shr (a + b + 1) 1 ∧ shr (a + b + 1) 1 ≤ 255 := by
  simp only [shr]; omega

theorem avg121_range {a b c : Int} (ha : 0 ≤ a ∧ a ≤ 255) (hb : 0 ≤ b ∧ b ≤ 255) (hc : 0 ≤ c ∧ c ≤ 255) :
    0 ≤ shr (a + 2 * b + c + 2) 2 ∧ shr (a + 2 * b + c + 2) 2 ≤ 255 := by
  simp only [shr]; omega

theorem avg13_range {a b : Int} (ha : 0 ≤ a ∧ a ≤ 255) (hb : 0 ≤ b ∧ b ≤ 255) :
    0 ≤ shr (a + 3 * b + 2) 2 ∧ shr (a + 3 * b + 2) 2 ≤ 255 := by
  simp only [shr]; omega

theorem avg4_range {a b c d : Int} (ha : 0 ≤ a ∧ a ≤ 255) (hb : 0 ≤ b ∧ b ≤ 255) (hc : 0 ≤ c ∧ c ≤ 255)
    (hd : 0 ≤ d ∧ d ≤ 255) : 0 ≤ shr (a + b + c + d + 2) 2 ∧ shr (a + b + c + d + 2) 2 ≤ 255 := by
  simp only [shr]; omega

end Sys2Proof.Machine
end

