-- ==== Sys2Proof/Laws/PerInstr.lean ====
section
/-! SUPPORT. The one family of statements made constructor by constructor: the reserved fields of a command's word
(30_encoding.md R61 to R64). -/

namespace Sys2Proof.Laws.ReservedZero

/-- The word of a well-formed command has an assigned opcode and zeros in both reserved fields. -/
def Statement (i : Instr) : Prop :=
  WellFormed i = true → fieldOp (encode i) ≤ 3 ∧ fieldRsv0 (encode i) = 0 ∧ fieldRsv1 (encode i) = 0

/-- The fields of a `PROBE` word. -/
theorem probeWord_fields {kind mode blk : Nat} (hk : kind < 4) (hm : mode < 16) (hb : blk < 16) :
    fieldOp (probeWord kind mode blk) ≤ 3 ∧ fieldRsv0 (probeWord kind mode blk) = 0 ∧
      fieldRsv1 (probeWord kind mode blk) = 0 := by
  simp only [fieldOp, fieldRsv0, fieldRsv1, bitField, probeWord, BitVec.toNat_ofNat]
  omega

theorem probe4 {mode blk : Nat} (hm : mode < 16) (h : blkInRange blk = true) :
    fieldOp (probeWord 0 mode blk) ≤ 3 ∧ fieldRsv0 (probeWord 0 mode blk) = 0 ∧ fieldRsv1 (probeWord 0 mode blk) = 0 :=
  probeWord_fields (by decide) hm (by simpa [blkInRange] using h)

theorem nop : Statement .nop := fun _ => by decide
theorem frameInit : Statement .frameInit := fun _ => by decide
theorem predictMb : Statement .predictMb := fun _ => by decide
theorem probeI4V (blk : Nat) : Statement (.probeI4V blk) := probe4 (by decide)
theorem probeI4H (blk : Nat) : Statement (.probeI4H blk) := probe4 (by decide)
theorem probeI4Dc (blk : Nat) : Statement (.probeI4Dc blk) := probe4 (by decide)
theorem probeI4Ddl (blk : Nat) : Statement (.probeI4Ddl blk) := probe4 (by decide)
theorem probeI4Ddr (blk : Nat) : Statement (.probeI4Ddr blk) := probe4 (by decide)
theorem probeI4Vr (blk : Nat) : Statement (.probeI4Vr blk) := probe4 (by decide)
theorem probeI4Hd (blk : Nat) : Statement (.probeI4Hd blk) := probe4 (by decide)
theorem probeI4Vl (blk : Nat) : Statement (.probeI4Vl blk) := probe4 (by decide)
theorem probeI4Hu (blk : Nat) : Statement (.probeI4Hu blk) := probe4 (by decide)
theorem probeI16V : Statement .probeI16V := fun _ => by decide
theorem probeI16H : Statement .probeI16H := fun _ => by decide
theorem probeI16Dc : Statement .probeI16Dc := fun _ => by decide
theorem probeI16Plane : Statement .probeI16Plane := fun _ => by decide
theorem probeCDc : Statement .probeCDc := fun _ => by decide
theorem probeCH : Statement .probeCH := fun _ => by decide
theorem probeCV : Statement .probeCV := fun _ => by decide
theorem probeCPlane : Statement .probeCPlane := fun _ => by decide

end Sys2Proof.Laws.ReservedZero
end

