-- ==== Sys2Proof/Machine/Program.lean ====
section
/-! DEFINITION. The notation of the spec's programs as lists of events (30_encoding.md R67, R68). -/

namespace Sys2Proof.Machine

/-- `W32 off, v` (R67). -/
def opW32 (off v : Nat) : Event := .write .w32 (BitVec.ofNat 23 off) (BitVec.ofNat 32 v)

/-- `W16 off, v` (R67). -/
def opW16 (off v : Nat) : Event := .write .w16 (BitVec.ofNat 23 off) (BitVec.ofNat 32 v)

/-- `W8 off, v` (R67). -/
def opW8 (off v : Nat) : Event := .write .w8 (BitVec.ofNat 23 off) (BitVec.ofNat 32 v)

/-- `R32 off` (R67). -/
def opR32 (off : Nat) : Event := .read .w32 (BitVec.ofNat 23 off)

/-- A command by its mnemonic: the write of its word to `CMD` (R67). -/
def opCmd (i : Instr) : Event := .write .w32 0x008#23 (encode i)

/-- `WAIT` with a latency of `polls` polls that read `BUSY = 1`: the engine's turn comes after them, and the last poll reads
`BUSY = 0` (R68, 20_memory.md R57). -/
def opWait (polls : Nat) : List Event := List.replicate polls (opR32 0x00C) ++ [.engine, opR32 0x00C]

/-- `CLRST` (R68). -/
def opClrst : Event := opW32 0x00C 0x0000000E

/-- Samples stored four to a word from an offset on (R68). -/
def opLoad (off : Nat) : List Byte → List Event
  | b0 :: b1 :: b2 :: b3 :: bs => .write .w32 (BitVec.ofNat 23 off) (wordOfBytes b0 b1 b2 b3) :: opLoad (off + 4) bs
  | _ => []

/-- `LOADY a` (R68). -/
def opLoadY (a : List Byte) : List Event := opLoad srcYBase a

/-- `LOADC b, c` (R68). -/
def opLoadC (b c : List Byte) : List Event := opLoad srcCbBase b ++ opLoad srcCrBase c

/-- `FILLSRC v` (R68). -/
def opFillSrc (v : Byte) : List Event :=
  opLoadY (List.replicate 256 v) ++ opLoadC (List.replicate 64 v) (List.replicate 64 v)

/-- `SETFRAME w, h` (R68). -/
def opSetFrame (w h polls : Nat) : List Event := [opW32 0x010 w, opW32 0x014 h, opCmd .frameInit] ++ opWait polls

/-- `PRED n` (R68). -/
def opPred (n polls : Nat) : List Event := [opW32 0x028 n, opCmd .predictMb] ++ opWait polls

end Sys2Proof.Machine
end

