-- ==== Sys2Proof/Tests/Slice0.lean ====
section
/-! SUPPORT. Tests of the model against values from spec/, and for every statement with hypotheses a state that meets them. -/

open Sys2Proof Sys2Proof.Machine

namespace Sys2Proof.Tests

/-! ### Well-formed commands: `BLK` is at most 15 (30_encoding.md R63) -/

theorem test_wellFormed_i4v : WellFormed (.probeI4V 15) = true ∧ WellFormed (.probeI4V 16) = false := by decide
theorem test_wellFormed_i4h : WellFormed (.probeI4H 15) = true ∧ WellFormed (.probeI4H 16) = false := by decide
theorem test_wellFormed_i4dc : WellFormed (.probeI4Dc 15) = true ∧ WellFormed (.probeI4Dc 16) = false := by decide
theorem test_wellFormed_i4ddl : WellFormed (.probeI4Ddl 15) = true ∧ WellFormed (.probeI4Ddl 16) = false := by decide
theorem test_wellFormed_i4ddr : WellFormed (.probeI4Ddr 15) = true ∧ WellFormed (.probeI4Ddr 16) = false := by decide
theorem test_wellFormed_i4vr : WellFormed (.probeI4Vr 15) = true ∧ WellFormed (.probeI4Vr 16) = false := by decide
theorem test_wellFormed_i4hd : WellFormed (.probeI4Hd 15) = true ∧ WellFormed (.probeI4Hd 16) = false := by decide
theorem test_wellFormed_i4vl : WellFormed (.probeI4Vl 15) = true ∧ WellFormed (.probeI4Vl 16) = false := by decide
theorem test_wellFormed_i4hu : WellFormed (.probeI4Hu 15) = true ∧ WellFormed (.probeI4Hu 16) = false := by decide

/-! ### Words written out from the tables of 30_encoding.md R62, R63, field by field: RSV1, BLK, MODE, RSV0, KIND, OP -/

/-- A word from its six fields, as R61 draws them. -/
def wordOf (rsv1 : BitVec 16) (blk mode : BitVec 4) (rsv0 kind : BitVec 2) (op : BitVec 4) : Word :=
  rsv1 ++ blk ++ mode ++ rsv0 ++ kind ++ op

theorem test_decode_nop : decode (wordOf 0 0b0000 0b0000 0b00 0b00 0b0000) = .ok .nop := by decide
theorem test_decode_frameInit : decode (wordOf 0 0b0000 0b0000 0b00 0b00 0b0001) = .ok .frameInit := by decide
theorem test_decode_predictMb : decode (wordOf 0 0b0000 0b0000 0b00 0b00 0b0010) = .ok .predictMb := by decide
theorem test_decode_i4v : decode (wordOf 0 0b1111 0b0000 0b00 0b00 0b0011) = .ok (.probeI4V 15) := by decide
theorem test_decode_i4h : decode (wordOf 0 0b1110 0b0001 0b00 0b00 0b0011) = .ok (.probeI4H 14) := by decide
theorem test_decode_i4dc : decode (wordOf 0 0b0001 0b0010 0b00 0b00 0b0011) = .ok (.probeI4Dc 1) := by decide
theorem test_decode_i4ddl : decode (wordOf 0 0b0010 0b0011 0b00 0b00 0b0011) = .ok (.probeI4Ddl 2) := by decide
theorem test_decode_i4ddr : decode (wordOf 0 0b0110 0b0100 0b00 0b00 0b0011) = .ok (.probeI4Ddr 6) := by decide
theorem test_decode_i4vr : decode (wordOf 0 0b0100 0b0101 0b00 0b00 0b0011) = .ok (.probeI4Vr 4) := by decide
theorem test_decode_i4hd : decode (wordOf 0 0b1000 0b0110 0b00 0b00 0b0011) = .ok (.probeI4Hd 8) := by decide
theorem test_decode_i4vl : decode (wordOf 0 0b0011 0b0111 0b00 0b00 0b0011) = .ok (.probeI4Vl 3) := by decide
theorem test_decode_i4hu : decode (wordOf 0 0b0000 0b1000 0b00 0b00 0b0011) = .ok (.probeI4Hu 0) := by decide
theorem test_decode_i16v : decode (wordOf 0 0b0000 0b0000 0b00 0b01 0b0011) = .ok .probeI16V := by decide
theorem test_decode_i16h : decode (wordOf 0 0b0000 0b0001 0b00 0b01 0b0011) = .ok .probeI16H := by decide
theorem test_decode_i16dc : decode (wordOf 0 0b0000 0b0010 0b00 0b01 0b0011) = .ok .probeI16Dc := by decide
theorem test_decode_i16plane : decode (wordOf 0 0b0000 0b0011 0b00 0b01 0b0011) = .ok .probeI16Plane := by decide
theorem test_decode_cdc : decode (wordOf 0 0b0000 0b0000 0b00 0b10 0b0011) = .ok .probeCDc := by decide
theorem test_decode_ch : decode (wordOf 0 0b0000 0b0001 0b00 0b10 0b0011) = .ok .probeCH := by decide
theorem test_decode_cv : decode (wordOf 0 0b0000 0b0010 0b00 0b10 0b0011) = .ok .probeCV := by decide
theorem test_decode_cplane : decode (wordOf 0 0b0000 0b0011 0b00 0b10 0b0011) = .ok .probeCPlane := by decide

/-- The illegal words of 95_test_vectors.md V8 and 30_encoding.md R64, each rejected by its own name. -/
theorem test_decode_illegal :
    decode 0x00000004#32 = .error .reservedOp ∧ decode 0x0000000F#32 = .error .reservedOp ∧
      decode 0x00000012#32 = .error .operandBits ∧ decode 0x80000000#32 = .error .operandBits ∧
      decode 0x00000913#32 = .error .reservedMode ∧ decode 0x00001013#32 = .error .reservedBlk ∧
      decode 0x00000033#32 = .error .reservedKind ∧ decode 0x00000903#32 = .error .reservedMode ∧
      decode 0x00010003#32 = .error .reservedBits ∧ decode 0x00000043#32 = .error .reservedBits ∧
      decode 0x00000423#32 = .error .reservedMode := by decide

theorem test_decodeTableWord : decodeTableWord 32 0x00006403 = some (.probeI4Ddr 6) ∧ decodeTableWord 32 0x00000004 = none := by
  decide

/-! ### Small states -/

/-- Bytes at the offsets from `a` on, as cells. -/
def bytesAt (a : Nat) (bs : List Byte) : List Host.Cell := bs.mapIdx (fun i b => (a + i, b))

/-- Bytes at every `stride`-th offset from `a` on, as cells. -/
def columnAt (a stride : Nat) (bs : List Byte) : List Host.Cell := bs.mapIdx (fun i b => (a + stride * i, b))

/-- A frame of 2 by 2 macroblocks whose next one is 3, with the word `w` in flight for it (95_test_vectors.md, the setup of V2). -/
def inFrame (w : Word) (mem : Memory) : State :=
  { State.reset with
    status := { Status.reset with frameValid := true, lastop := w.setWidth 4 }
    frameW := 32, frameH := 32, mbCols := 2, mbRows := 2, mbCount := 4, nextMb := 3, mbIdx := 3
    mem := mem, inflight := some { word := w, idx := 3, bsrc := false } }

/-- A frame of one macroblock, its only one in flight under word `w` (95_test_vectors.md, P1). -/
def oneMb (w : Word) (mem : Memory) : State :=
  { State.reset with
    status := { Status.reset with frameValid := true, lastop := w.setWidth 4 }
    frameW := 16, frameH := 16, mbCols := 1, mbRows := 1, mbCount := 1
    mem := mem, inflight := some { word := w, idx := 0, bsrc := false } }

/-- The state after a step, if there is one. -/
def after (o : Host.Outcome State Fault Refusal) : State :=
  match o with
  | .next t => t
  | .fault _ => State.reset
  | .refused _ => State.reset

/-- Border E1 planted for block 0 of macroblock 3, and its source samples, all 80 (95_test_vectors.md V2). -/
def memoryE1 : Memory :=
  bytesAt 0x1000 [80, 80, 80, 80] ++ bytesAt 0x1010 [80, 80, 80, 80] ++ bytesAt 0x1020 [80, 80, 80, 80] ++
    bytesAt 0x1030 [80, 80, 80, 80] ++ bytesAt 0x2001EF [50, 60, 70, 80, 90, 100, 110, 120, 130] ++
    columnAt 0x20020F 32 [40, 30, 20, 10]

/-- What a 4x4 probe of block 0 on border E1 reports: `PROBE_STAT`, `PROBE_SAD` and `PROBE_PRED[0..15]`. -/
def probedE1 (i : Instr) : Word × Word × List Byte :=
  let t := after (exec i (inFrame (encode i) memoryE1))
  (t.probeStat, t.probeSad, t.mem.readRun 0x5000 16)

theorem test_E1_V : probedE1 (.probeI4V 0) =
    (0x003#32, 160#32, [60, 70, 80, 90, 60, 70, 80, 90, 60, 70, 80, 90, 60, 70, 80, 90]) := by decide +kernel
theorem test_E1_H : probedE1 (.probeI4H 0) =
    (0x103#32, 880#32, [40, 40, 40, 40, 30, 30, 30, 30, 20, 20, 20, 20, 10, 10, 10, 10]) := by decide +kernel
theorem test_E1_DC : probedE1 (.probeI4Dc 0) =
    (0x203#32, 480#32, [50, 50, 50, 50, 50, 50, 50, 50, 50, 50, 50, 50, 50, 50, 50, 50]) := by decide +kernel
theorem test_E1_DDL : probedE1 (.probeI4Ddl 0) =
    (0x303#32, 338#32, [70, 80, 90, 100, 80, 90, 100, 110, 90, 100, 110, 120, 100, 110, 120, 128]) := by decide +kernel
theorem test_E1_DDR : probedE1 (.probeI4Ddr 0) =
    (0x403#32, 480#32, [50, 60, 70, 80, 40, 50, 60, 70, 30, 40, 50, 60, 20, 30, 40, 50]) := by decide +kernel
theorem test_E1_VR : probedE1 (.probeI4Vr 0) =
    (0x503#32, 305#32, [55, 65, 75, 85, 50, 60, 70, 80, 40, 55, 65, 75, 30, 50, 60, 70]) := by decide +kernel
theorem test_E1_HD : probedE1 (.probeI4Hd 0) =
    (0x603#32, 665#32, [45, 50, 60, 70, 35, 40, 45, 50, 25, 30, 35, 40, 15, 20, 25, 30]) := by decide +kernel
theorem test_E1_VL : probedE1 (.probeI4Vl 0) =
    (0x703#32, 190#32, [65, 75, 85, 95, 70, 80, 90, 100, 75, 85, 95, 105, 80, 90, 100, 110]) := by decide +kernel
theorem test_E1_HU : probedE1 (.probeI4Hu 0) =
    (0x803#32, 1009#32, [35, 30, 25, 20, 25, 20, 15, 13, 15, 13, 10, 10, 10, 10, 10, 10]) := by decide +kernel

/-- Border E2 planted for macroblock 3 (95_test_vectors.md V3, with the corner where 20_memory.md R53 puts it: log 19). The source
is all 0 here, so a SAD is the sum of the prediction's samples. -/
def memoryE2 : Memory :=
  bytesAt 0x2001EF [25, 20, 28, 36, 44, 52, 60, 68, 76, 84, 92, 100, 108, 116, 124, 132, 140] ++
    columnAt 0x20020F 32 [30, 36, 42, 48, 54, 60, 66, 72, 78, 84, 90, 96, 102, 108, 114, 120]

/-- What a 16x16 probe on border E2 reports: `PROBE_STAT`, `PROBE_SAD` and the first and the last row of its prediction. The sums
are 16 * 1280, 16 * 1200 and 256 * 78 (42_luma16x16.md R93 to R95). -/
def probedE2 (i : Instr) : Word × Word × List Byte × List Byte :=
  let t := after (exec i (inFrame (encode i) memoryE2))
  (t.probeStat, t.probeSad, t.mem.readRun 0x5000 16, t.mem.readRun 0x50F0 16)

theorem test_E2_V : probedE2 .probeI16V =
    (0x013#32, 20480#32, [20, 28, 36, 44, 52, 60, 68, 76, 84, 92, 100, 108, 116, 124, 132, 140],
      [20, 28, 36, 44, 52, 60, 68, 76, 84, 92, 100, 108, 116, 124, 132, 140]) := by decide +kernel
theorem test_E2_H : probedE2 .probeI16H =
    (0x113#32, 19200#32, List.replicate 16 30, List.replicate 16 120) := by decide +kernel
theorem test_E2_DC : probedE2 .probeI16Dc =
    (0x213#32, 19968#32, List.replicate 16 78, List.replicate 16 78) := by decide +kernel
theorem test_E2_PLANE : (let r := probedE2 .probeI16Plane; (r.1, r.2.2)) =
    (0x313#32, [34, 42, 50, 57, 65, 73, 81, 88, 96, 104, 111, 119, 127, 135, 142, 150],
      [124, 131, 139, 147, 155, 162, 170, 178, 185, 193, 201, 209, 216, 224, 232, 240]) := by decide +kernel

/-- Border E3 planted in both chroma planes for macroblock 3, and its chroma source, all 80 (95_test_vectors.md V4). -/
def memoryE3 : Memory :=
  bytesAt 0x1100 (List.replicate 128 80) ++
    bytesAt 0x400077 [70, 40, 50, 60, 70, 80, 90, 100, 110] ++ columnAt 0x400087 16 [100, 92, 84, 76, 68, 60, 52, 44] ++
    bytesAt 0x480077 [70, 40, 50, 60, 70, 80, 90, 100, 110] ++ columnAt 0x480087 16 [100, 92, 84, 76, 68, 60, 52, 44]

/-- What a chroma probe on border E3 reports: `PROBE_STAT`, `PROBE_SAD`, the first row of Cb and the last row of Cr. -/
def probedE3 (i : Instr) : Word × Word × List Byte × List Byte :=
  let t := after (exec i (inFrame (encode i) memoryE3))
  (t.probeStat, t.probeSad, t.mem.readRun 0x5100 8, t.mem.readRun 0x5178 8)

theorem test_E3_DC : probedE3 .probeCDc =
    (0x023#32, 1632#32, [72, 72, 72, 72, 95, 95, 95, 95], [56, 56, 56, 56, 76, 76, 76, 76]) := by decide +kernel
theorem test_E3_H : probedE3 .probeCH =
    (0x123#32, 2176#32, [100, 100, 100, 100, 100, 100, 100, 100], [44, 44, 44, 44, 44, 44, 44, 44]) := by decide +kernel
theorem test_E3_V : probedE3 .probeCV =
    (0x223#32, 2560#32, [40, 50, 60, 70, 80, 90, 100, 110], [40, 50, 60, 70, 80, 90, 100, 110]) := by decide +kernel
theorem test_E3_PLANE : probedE3 .probeCPlane =
    (0x323#32, 2214#32, [71, 79, 86, 93, 101, 108, 115, 123], [33, 41, 48, 55, 63, 70, 77, 85]) := by decide +kernel

/-! ### Corner cases of the modes, from the rules' worked examples -/

/-- Border E1 with the availability `av` (41_luma4x4.md, the template). -/
def borderE1 (av : Avail) : Predictor :=
  { corner := 50, up := [60, 70, 80, 90, 100, 110, 120, 130], left := [40, 30, 20, 10], av := av }

/-- Every border is there. -/
def allBorders : Avail := { up := true, left := true, upright := true, upleft := true }

/-- R83: DC from the left only gives 25, from the top only 75, from neither 128. -/
theorem test_dc4_sides :
    i4Dc (borderE1 { allBorders with up := false }) 0 0 = 25 ∧ i4Dc (borderE1 { allBorders with left := false }) 0 0 = 75 ∧
      i4Dc (borderE1 { allBorders with up := false, left := false }) 0 0 = 128 := by decide +kernel

/-- R84, R88: DDL and VL where the up-right border repeats the last up sample. -/
theorem test_no_upright :
    (I4Mode.ddl.block { borderE1 allBorders with up := [60, 70, 80, 90, 90, 90, 90, 90] } =
      [70, 80, 88, 90, 80, 88, 90, 90, 88, 90, 90, 90, 90, 90, 90, 90]) ∧
    (I4Mode.vl.block { borderE1 allBorders with up := [60, 70, 80, 90, 90, 90, 90, 90] } =
      [65, 75, 85, 90, 70, 80, 88, 90, 75, 85, 90, 90, 80, 88, 90, 90]) := by decide +kernel

/-- R96: the clipping example of the 16x16 plane. -/
theorem test_plane_clips :
    (I16Mode.plane.block
      { corner := 128, up := List.replicate 8 255 ++ List.replicate 8 0, left := List.replicate 8 0 ++ List.replicate 8 255,
        av := allBorders }).take 16 = [128, 108, 88, 68, 48, 28, 8, 0, 0, 0, 0, 0, 0, 0, 0, 0] := by decide +kernel

/-- R99: the quadrants of chroma DC with one side. -/
theorem test_chroma_dc_sides :
    let p (u l : Bool) : Predictor :=
      { corner := 70, up := [40, 50, 60, 70, 80, 90, 100, 110], left := [100, 92, 84, 76, 68, 60, 52, 44]
        av := { up := u, left := l, upright := u, upleft := u && l } }
    (List.map (fun q : Int × Int => cDc (p false true) q.1 q.2) [(0, 0), (4, 0), (0, 4), (4, 4)] = [88, 88, 56, 56]) ∧
      (List.map (fun q : Int × Int => cDc (p true false) q.1 q.2) [(0, 0), (4, 0), (0, 4), (4, 4)] = [55, 95, 55, 95]) := by
  decide +kernel

/-- R105: the first of several minima is taken (44_selection.md R105). -/
theorem test_argmin_first : argminFirst (fun x : Nat × Nat => x.2) [(0, 5), (1, 3), (2, 3), (3, 4)] = some (1, 3) := by decide

/-! ### PREDICT_MB, FRAME_INIT and NOP -/

/-- `PREDICT_MB` of the one macroblock of a frame, every source sample 0. By hand from R80 to R107: block 0 and 16x16 have only DC
128, so `I4COST[0] = 16 * 128`, every later block is predicted exactly from 0, both thresholds are passed, and PRED keeps the
4x4 prediction. -/
theorem test_predictMb_black :
    let t := after (exec .predictMb (oneMb 2#32 []))
    [t.result, t.costI4, t.costI16, t.costChroma, t.i4bestLo] =
        [0x00000025#32, 2048#32, 32768#32, 16384#32, 0x00110012#32] ∧
      t.mem.readRun 0x100000 8 = [0xF5, 0x00, 0x00, 0x00, 0x12, 0x00, 0x11, 0x00] ∧
      t.mem.readRun 0x3000 5 = [128, 128, 128, 128, 0] := by decide +kernel

/-- `PREDICT_MB` of macroblock 1 of a 32x16 frame, every sample 0, under `BSRC = 1`. By hand: H predicts from the left border of 0
exactly, both searches cost 0, and the tie goes to 16x16 (R106). -/
theorem test_predictMb_tie :
    let s := { oneMb 2#32 [] with
      frameW := 32, mbCols := 2, mbCount := 2, nextMb := 1, inflight := some { word := 2#32, idx := 1, bsrc := true } }
    let t := after (exec .predictMb s)
    (t.result, t.costI4, t.costI16, t.costChroma, t.nextMb, t.avail) = (0x00000013#32, 0#32, 0#32, 0#32, 2#16, 0x02#32) := by
  decide +kernel

/-- A state with `FRAME_W` and `FRAME_H`, and `FRAME_INIT` in flight. -/
def sized (w h : Half) : State :=
  { State.reset with
    status := { Status.reset with lastop := 1#4 }
    frameW := w, frameH := h, inflight := some { word := 1#32, idx := 0, bsrc := false } }

/-- 95_test_vectors.md V8 and the table of 45_commands.md R118. -/
theorem test_frameInit :
    let st (w h : Half) := (after (exec .frameInit (sized w h))).statusWord
    (st 20 16, st 1936 16, st 1920 1080, st 0 16, st 2000 17, st 32 32) =
      (0x1024#32, 0x1034#32, 0x1024#32, 0x1024#32, 0x1024#32, 0x1102#32) := by decide +kernel

theorem test_frameInit_largest :
    let t := after (exec .frameInit (sized 1920 1088))
    (t.mbCols, t.mbRows, t.mbCount, t.nextMb) = (120#16, 68#16, 8160#16, 0#16) := by decide +kernel

/-- 95_test_vectors.md V8: `NOP` and `PREDICT_MB` right after reset, an illegal word, and an index that is not the next one. -/
theorem test_V8 :
    ((after (step (State.reset.withFetchWord 32 0))).statusWord, (after (step (State.reset.withFetchWord 32 2))).statusWord,
      (after (step (State.reset.withFetchWord 32 4))).statusWord,
      (after (exec .predictMb { inFrame 2#32 [] with nextMb := 0, inflight := some { word := 2, idx := 1, bsrc := false } })).statusWord,
      (after (exec .predictMb { inFrame 2#32 [] with nextMb := 0, inflight := some { word := 2, idx := 4, bsrc := false } })).statusWord) =
    (0x00000002#32, 0x00002044#32, 0x00004014#32, 0x00002164#32, 0x00002154#32) := by decide +kernel

/-- 40_neighbours.md R70 and 95_test_vectors.md V1: `AVAIL` of the six macroblocks of a 48x32 frame. -/
theorem test_V1 : (List.range 6).map (fun n => availWord (mbAvail 3 n)) = [0x10, 0x12, 0x02, 0x15, 0x1F, 0x0B] := by decide

/-! ### Bus accesses (95_test_vectors.md V9, V10) -/

/-- A state that has just to do one bus access. -/
def withEvent (e : Event) (s : State) : State := { s with script := [e] }

theorem test_V9_errors :
    [accessOk false .w32 0x064, accessOk false .w32 0x0BC, accessOk false .w32 0x0C0, accessOk false .w16 0x004,
      accessOk true .w8 0x00C, accessOk false .w8 0x001001, accessOk false .w16 0x001001, accessOk true .w8 0x002000,
      accessOk true .w32 0x100000, accessOk false .w32 0x500000] =
    [false, true, false, false, false, true, false, false, false, false] := by decide

theorem test_V9_mixed_width :
    let s : State := { State.reset with mem := bytesAt 0x1000 [1, 2, 3, 4] }
    ((after (step (withEvent (.read .w8 0x1002) s))).bus, (after (step (withEvent (.read .w16 0x1002) s))).bus,
      (after (step (withEvent (.read .w32 0x1000) s))).bus) =
    (some (.readOk 3#32), some (.readOk 0x0403#32), some (.readOk 0x04030201#32)) := by decide +kernel

theorem test_write_bytes :
    (after (step (withEvent (opW32 0x1000 0x04030201) State.reset))).mem = bytesAt 0x1000 [1, 2, 3, 4] ∧
      (after (step (withEvent (opW16 0x1001 7) State.reset))).bus = some .writeError := by decide +kernel

theorem test_V9_mode_store_gate :
    let s : State := { oneMb 2#32 (bytesAt 0x100000 [0xF1]) with inflight := none }
    ((after (step (withEvent (opR32 0x100000) s))).bus, (after (step (withEvent (opR32 0x100000) { s with nextMb := 1 }))).bus) =
    (some (.readOk 0#32), some (.readOk 0xF1#32)) := by decide +kernel

/-- A write while busy is dropped and sets `OVR` (20_memory.md R50, 95_test_vectors.md V9). -/
theorem test_overrun :
    let t := after (step (withEvent (opW32 0x010 64) (oneMb 2#32 [])))
    (t.frameW, t.statusWord) = (16#16, 0x00002109#32) := by decide +kernel

/-- 95_test_vectors.md V10: a command error raises the interrupt when it is enabled, and clearing `ERR` lowers it. -/
theorem test_V10 :
    let s := after (step ({ State.reset with irqEn := true }.withFetchWord 32 2))
    (s.irq, (after (step (withEvent (opW32 0x00C 0x4) s))).irq, { s with irqEn := false }.irq) = (true, false, false) := by
  decide +kernel

/-! ### Witnesses: for every statement with hypotheses, states and operands that meet all of them, clause by clause -/

/-- A macroblock ready to be predicted (45_commands.md R116), in a frame of one, with memory that lists one sample. -/
def ready : State := oneMb 2#32 [(0x1000, 77)]

/-- What `ready` has latched. -/
def readyLatch : Latch := { word := 2#32, idx := 0, bsrc := false }

theorem ready_readyFor : ready.readyFor readyLatch := ⟨rfl, rfl, by decide, rfl⟩

theorem ready_geometryOk : ready.geometryOk := ⟨by decide, by decide, by decide, by decide, by decide⟩

theorem ready_wf : ready.mem.wf := by decide

theorem ready_statusOk : ready.statusOk := ⟨by decide, by decide, by decide, by decide⟩

/-- Every command leads to a next state, so a premise that it does can be met. -/
theorem exec_next (i : Instr) (s : State) : ∃ (t : State), exec i s = .next t := ⟨_, exec_eq i s⟩

theorem witness_DecodeOfEncode : WellFormed (.probeI4Hu 15) = true ∧ WellFormed .probeCPlane = true := by decide

theorem witness_EncodeOfDecode : decode 0x0000F803#32 = .ok (.probeI4Hu 15) := by decide

theorem witness_StepRunsCommandInFlight :
    (∃ (s : State) (l : Latch) (i : Instr) (rest : List Event), s.inflight = some l ∧ decode l.word = .ok i ∧
    s.script = .engine :: rest) ∧
      (∃ (s : State) (l : Latch) (i : Instr), s.inflight = some l ∧ decode l.word = .ok i ∧ s.script = []) ∧
      WellFormed (.probeI4V 0) = true :=
  ⟨⟨{ ready with script := [.engine] }, readyLatch, .predictMb, [], rfl, by decide, rfl⟩,
    ⟨ready, readyLatch, .predictMb, rfl, by decide, rfl⟩, by decide⟩

theorem witness_ExecAtIdleIssuesFirst : State.reset.inflight = none := rfl

theorem witness_IllegalWordEndsInErrCmd :
    ∃ (s : State) (l : Latch) (e : DecodeError) (rest : List Event), s.inflight = some l ∧ decode l.word = .error e ∧
    s.script = .engine :: rest :=
  ⟨{ oneMb 4#32 [] with script := [.engine] }, { word := 4#32, idx := 0, bsrc := false }, .reservedOp, [], rfl, by decide, rfl⟩

theorem witness_CmdWriteIssues : (∃ (s : State) (w : Word) (rest : List Event), s.inflight = none ∧
    s.script = .write .w32 0x008#23 w :: rest) ∧
    ∃ (s : State) (w : Word) (rest : List Event) (l : Latch), s.inflight = some l ∧ s.script = .write .w32 0x008#23 w :: rest :=
  ⟨⟨withEvent (opCmd .nop) State.reset, 0#32, [], rfl, rfl⟩, ⟨withEvent (opCmd .nop) ready, 0#32, [], readyLatch, rfl, rfl⟩⟩

theorem witness_EngineTurnCompletes : (ready.script = [] ∧ ready.inflight.isSome = true) ∧
    ∃ (s : State) (rest : List Event), s.inflight.isSome = true ∧ s.script = .engine :: rest :=
  ⟨⟨rfl, rfl⟩, { ready with script := [.engine] }, [], rfl, rfl⟩

/-- A write just past SRC, and a misaligned read of it. -/
theorem witness_BusErrorHasNoEffect :
    (∃ (s : State) (n : Width) (off : BitVec 23) (v : Word) (rest : List Event), accessOk true n off.toNat = false ∧
    s.script = .write n off v :: rest) ∧
      ∃ (s : State) (n : Width) (off : BitVec 23) (rest : List Event), accessOk false n off.toNat = false ∧
      s.script = .read n off :: rest :=
  ⟨⟨withEvent (.write .w8 0x001180#23 1#32) ready, .w8, 0x001180#23, 1#32, [], by decide, rfl⟩,
    ⟨withEvent (.read .w16 0x001001#23) ready, .w16, 0x001001#23, [], by decide, rfl⟩⟩

theorem witness_ReadsChangeNothing : ∃ (s : State) (n : Width) (off : BitVec 23) (rest : List Event), s.inflight ≠ none ∧
    s.script = .read n off :: rest :=
  ⟨withEvent (.read .w32 0x030#23) ready, .w32, 0x030#23, [], by decide, rfl⟩

theorem witness_BusyWriteIsAnOverrun :
    ∃ (s : State) (l : Latch) (n : Width) (off : BitVec 23) (v : Word) (rest : List Event), s.inflight = some l ∧
    accessOk true n off.toNat = true ∧ s.script = .write n off v :: rest :=
  ⟨withEvent (.write .w8 0x4FF7FF#23 1#32) ready, readyLatch, .w8, 0x4FF7FF#23, 1#32, [], rfl, by decide, rfl⟩

/-- Every register that reads while busy, every result register of an idle engine, and both ends of `I4COST`. -/
theorem witness_RegistersRead :
    (∀ off ∈ [0x000#23, 0x004#23, 0x008#23, 0x00C#23, 0x010#23, 0x014#23, 0x018#23, 0x01C#23, 0x020#23, 0x024#23, 0x028#23,
      0x05C#23, 0x060#23], ∃ (s : State) (rest : List Event), s.inflight ≠ none ∧ s.script = .read .w32 off :: rest) ∧
    (∀ off ∈ [0x02C#23, 0x030#23, 0x034#23, 0x038#23, 0x03C#23, 0x040#23, 0x044#23, 0x048#23, 0x04C#23, 0x050#23, 0x054#23,
      0x058#23], ∃ (s : State) (rest : List Event), s.inflight = none ∧ s.script = .read .w32 off :: rest) ∧
    ∀ p ∈ [(0x080#23, (0 : Fin 16)), (0x0BC#23, 15)], ∃ (s : State) (rest : List Event),
      s.inflight = none ∧ p.1.toNat = 0x080 + 4 * p.2.val ∧ s.script = .read .w32 p.1 :: rest := by
  refine ⟨fun off _ => ⟨withEvent (.read .w32 off) ready, [], by simp [withEvent, ready, oneMb], rfl⟩,
    fun off _ => ⟨withEvent (.read .w32 off) State.reset, [], rfl, rfl⟩, fun p h => ?_⟩
  refine ⟨withEvent (.read .w32 p.1) State.reset, [], rfl, ?_, rfl⟩
  simp only [List.mem_cons, List.not_mem_nil, or_false] at h
  rcases h with rfl | rfl <;> rfl

theorem witness_StatusWriteOneToClear : ∃ (s : State) (v : Word) (rest : List Event), s.inflight = none ∧
    s.script = .write .w32 0x00C#23 v :: rest :=
  ⟨withEvent opClrst State.reset, 0xE#32, [], rfl, rfl⟩

/-- One write for each clause, the RO ones at both ends of each range. -/
theorem witness_RegisterWrites : ∀ off ∈ [0x004#23, 0x010#23, 0x014#23, 0x028#23, 0x000#23, 0x018#23, 0x024#23, 0x02C#23,
    0x060#23,
    0x080#23, 0x0BC#23], ∃ (s : State) (v : Word) (rest : List Event), s.inflight = none ∧ off.toNat % 4 = 0 ∧
    s.script = .write .w32 off v :: rest := by
  intro off h
  refine ⟨withEvent (.write .w32 off 0xFFFFFFFF#32) State.reset, 0xFFFFFFFF#32, [], rfl, ?_, rfl⟩
  simp only [List.mem_cons, List.not_mem_nil, or_false] at h
  rcases h with rfl | rfl | rfl | rfl | rfl | rfl | rfl | rfl | rfl | rfl | rfl <;> rfl

/-- The first word of SRC and the last byte of the DNT. -/
theorem witness_WindowWriteStoresItsBytes : ∀ p ∈ [(Width.w32, 0x001000#23), (Width.w8, 0x4FF7FF#23)],
    ∃ (s : State) (v : Word) (rest : List Event), s.mem.wf ∧ s.inflight = none ∧ accessOk true p.1 p.2.toNat = true ∧
    0x001000 ≤ p.2.toNat ∧
      s.script = .write p.1 p.2 v :: rest := by
  intro p h
  refine ⟨withEvent (.write p.1 p.2 5#32) State.reset, 5#32, [], ⟨.nil, by simp [withEvent, State.reset]⟩, rfl, ?_, ?_,
    rfl⟩ <;> revert p <;> decide

/-- The last word below the mode store, the first byte above it, and the first word of SRC. -/
theorem witness_WindowReadIsLittleEndian : ∀ p ∈ [(Width.w32, 0x00517C#23), (Width.w8, 0x200000#23), (Width.w16, 0x001000#23)],
    ∃ (s : State) (rest : List Event), s.inflight = none ∧ accessOk false p.1 p.2.toNat = true ∧ 0x001000 ≤ p.2.toNat ∧
      (p.2.toNat < 0x100000 ∨ 0x200000 ≤ p.2.toNat) ∧ s.script = .read p.1 p.2 :: rest := by
  intro p h
  refine ⟨withEvent (.read p.1 p.2) State.reset, [], rfl, ?_, ?_, ?_, rfl⟩ <;> revert p <;> decide

/-- A committed record, the last record of the store, which no frame here has committed, and a write of the store's last byte. -/
theorem witness_ModeStoreReadsAreGated :
    (∃ (s : State) (r : Nat) (w : Nat) (rest : List Event), s.inflight = none ∧ r < 8160 ∧ w < 4 ∧ s.status.frameValid = true ∧
    r < s.nextMb.toNat ∧
      s.script = .read .w32 (BitVec.ofNat 23 (0x100000 + 16 * r + 4 * w)) :: rest) ∧
    (∃ (s : State) (r : Nat) (w : Nat) (rest : List Event), s.inflight = none ∧ r < 8160 ∧ w < 4 ∧ s.nextMb.toNat ≤ r ∧
      s.script = .read .w32 (BitVec.ofNat 23 (0x100000 + 16 * r + 4 * w)) :: rest) ∧
    ∃ (s : State) (n : Width) (off : BitVec 23) (v : Word) (rest : List Event), 0x100000 ≤ off.toNat ∧ off.toNat ≤ 0x11FDFF ∧
      s.script = .write n off v :: rest :=
  ⟨⟨withEvent (.read .w32 0x100000#23) { ready with inflight := none, nextMb := 1 }, 0, 0, [], rfl, by decide, by decide, rfl,
      by decide, rfl⟩,
    ⟨withEvent (.read .w32 (BitVec.ofNat 23 (0x100000 + 16 * 8159 + 4 * 3))) State.reset, 8159, 3, [], rfl, by decide, by decide,
      by decide, rfl⟩,
    ⟨withEvent (.write .w8 0x11FDFF#23 1#32) ready, .w8, 0x11FDFF#23, 1#32, [], by decide, by decide, rfl⟩⟩

theorem witness_InterruptFollowsCompletion :
    (ready.statusOk ∧ ready.inflight.isSome = true) ∧ ∃ (s : State) (l : Latch) (rest : List Event), s.inflight = some l ∧
    s.script = .engine :: rest :=
  ⟨⟨ready_statusOk, rfl⟩, { ready with script := [.engine] }, readyLatch, [], rfl, rfl⟩

theorem witness_ResetEventResets :
    ∃ (s : State) (contents : List Host.Cell) (rest : List Event), s.script = .reset contents :: rest ∧ Memory.wf contents ∧
    ∀ c ∈ contents, isMemory c.1 = true :=
  ⟨withEvent (.reset [(0x001000, 1), (0x4FF7FF, 2)]) ready, [(0x001000, 1), (0x4FF7FF, 2)], [], rfl, by decide, by decide⟩

theorem witness_NopCompletes : (∃ (l : Latch), ready.inflight = some l) ∧ State.reset.inflight = none := ⟨⟨readyLatch, rfl⟩, rfl⟩

/-- The smallest and the largest frame. -/
theorem witness_FrameInitStartsFrame : ∀ p ∈ [(1, 1), (120, 68)], ∃ (s : State) (l : Latch), s.inflight = some l ∧
    s.frameW.toNat = 16 * p.1 ∧
    s.frameH.toNat = 16 * p.2 ∧ 0 < p.1 ∧ 0 < p.2 ∧ 16 * p.1 ≤ 1920 ∧ 16 * p.2 ≤ 1088 := by
  intro p h
  refine ⟨sized (BitVec.ofNat 16 (16 * p.1)) (BitVec.ofNat 16 (16 * p.2)), _, rfl, ?_⟩
  revert p
  decide

/-- A size of 0, one that is no multiple of 16, and the first multiple above the limit. -/
theorem witness_FrameInitErrors :
    (∃ (s : State) (l : Latch), s.inflight = some l ∧ s.frameW.toNat = 0) ∧ (∃ (s : State) (l : Latch), s.inflight = some l ∧
    s.frameH.toNat % 16 ≠ 0) ∧
      ∃ (s : State) (l : Latch), s.inflight = some l ∧
        ¬(s.frameW.toNat = 0 ∨ s.frameH.toNat = 0 ∨ s.frameW.toNat % 16 ≠ 0 ∨ s.frameH.toNat % 16 ≠ 0) ∧
        1088 < s.frameH.toNat :=
  ⟨⟨sized 0 16, _, rfl, by decide⟩, ⟨sized 1920 1080, _, rfl, by decide⟩, ⟨sized 1920 1104, _, rfl, by decide, by decide⟩⟩

/-- No frame; the first index past the last macroblock; an index that exists but is not the next one. -/
theorem witness_MacroblockChecks :
    (∃ (s : State) (l : Latch) (i : Instr), s.inflight = some l ∧ needsMb i = true ∧ s.status.frameValid = false) ∧
    (∃ (s : State) (l : Latch) (i : Instr), s.inflight = some l ∧ needsMb i = true ∧ s.status.frameValid = true ∧
    s.mbCount.toNat ≤ l.idx.toNat) ∧
    ∃ (s : State) (l : Latch) (i : Instr), s.inflight = some l ∧ needsMb i = true ∧ s.status.frameValid = true ∧
    l.idx.toNat < s.mbCount.toNat ∧
      l.idx ≠ s.nextMb :=
  ⟨⟨sized 16 16, _, .predictMb, rfl, rfl, rfl⟩,
    ⟨{ ready with inflight := some { readyLatch with idx := 1 } }, _, .probeCPlane, rfl, rfl, rfl, by decide⟩,
    ⟨{ inFrame 2#32 [] with nextMb := 0 }, _, .probeI4V 0, rfl, rfl, rfl, by decide, by decide⟩⟩

theorem witness_CommandErrorsArePrecise :
    ∃ (s : State) (t : State) (l : Latch) (i : Instr), s.statusOk ∧ s.inflight = some l ∧ exec i s = .next t ∧
    t.status.err = true :=
  ⟨sized 0 16, _, _, .frameInit, ⟨by decide, by decide, by decide, by decide⟩, rfl, rfl, by decide⟩

theorem witness_PredictMbReports : ∃ (s : State) (l : Latch), State.readyFor s l := ⟨ready, readyLatch, ready_readyFor⟩

/-- The premises of `PredictMbWritesPredAndWork`, `PredictMbWritesDnt` and `PredictMbWritesModeRecord`. -/
theorem witness_PredictMbWrites : ∃ (s : State) (t : State) (l : Latch), State.geometryOk s ∧ s.mem.wf ∧ s.readyFor l ∧
    exec .predictMb s = .next t := by
  obtain ⟨t, ht⟩ := exec_next .predictMb ready
  exact ⟨ready, t, readyLatch, ready_geometryOk, ready_wf, ready_readyFor, ht⟩

/-- The bounds of the quantified indexes of those statements: the last of each range, in the last block. -/
theorem witness_PredictMbWrites_bounds : (255 < 256 ∧ 63 < 64 ∧ 383 < 384) ∧ blkX 15 = 3 ∧ blkY 15 = 3 := by decide

/-- A byte of SRC is none of those a commit writes. -/
theorem witness_PredictMbWritesNothingElse : ∃ (s : State) (t : State) (l : Latch) (a : Nat), State.readyFor s l ∧
    exec .predictMb s = .next t ∧
    ¬(0x003000 ≤ a ∧ a < 0x003180) ∧ ¬(0x002000 ≤ a ∧ a < 0x002300) ∧
    ¬(0x100000 + 16 * l.idx.toNat ≤ a ∧ a < 0x100000 + 16 * l.idx.toNat + 16) ∧
    (∀ x y, x < 16 → y < 16 → a ≠ 0x200000 + (16 * (l.idx.toNat / s.mbCols.toNat) + y) * (16 * s.mbCols.toNat) +
      (16 * (l.idx.toNat % s.mbCols.toNat) + x)) ∧
    (∀ x y, x < 8 → y < 8 → a ≠ 0x400000 + (8 * (l.idx.toNat / s.mbCols.toNat) + y) * (8 * s.mbCols.toNat) +
      (8 * (l.idx.toNat % s.mbCols.toNat) + x)) ∧
    (∀ x y, x < 8 → y < 8 → a ≠ 0x480000 + (8 * (l.idx.toNat / s.mbCols.toNat) + y) * (8 * s.mbCols.toNat) +
      (8 * (l.idx.toNat % s.mbCols.toNat) + x)) := by
  obtain ⟨t, ht⟩ := exec_next .predictMb ready
  refine ⟨ready, t, readyLatch, 0x001000, ready_readyFor, ht, by decide, by decide, by decide, ?_, ?_, ?_⟩ <;>
    intro x y _ _ h <;> omega

/-- The premises of the three completion statements of the probes, with the last block. -/
theorem witness_ProbesComplete : ∃ (s : State) (l : Latch) (k : Nat), State.readyFor s l ∧ s.mem.wf ∧ k = 15 ∧ k < 16 :=
  ⟨ready, readyLatch, 15, ready_readyFor, ready_wf, rfl, by decide⟩

/-- The premises of `Probe4x4AgreesWithPredict` and `WholeBlockProbesAgreeWithPredict`. -/
theorem witness_ProbesAgreeWithPredict : ∃ (s : State) (l : Latch) (t : State) (u : State) (v : State) (w : State),
    State.readyFor s l ∧ exec ((I4Mode.dc).probe 0) s = .next t ∧
    exec I16Mode.dc.probe s = .next u ∧ exec CMode.dc.probe s = .next v ∧ exec .predictMb s = .next w := by
  obtain ⟨t, ht⟩ := exec_next ((I4Mode.dc).probe 0) ready
  obtain ⟨u, hu⟩ := exec_next I16Mode.dc.probe ready
  obtain ⟨v, hv⟩ := exec_next CMode.dc.probe ready
  obtain ⟨w, hw⟩ := exec_next .predictMb ready
  exact ⟨ready, readyLatch, t, u, v, w, ready_readyFor, ht, hu, hv, hw⟩

/-- Their inner premises: on the black macroblock a legal DC probe sets `LEGAL`,
    and DC is the mode `PREDICT_MB` chooses for block 0,
for 16x16 and for chroma. -/
theorem witness_ProbesAgreeWithPredict_inner :
    let s := oneMb 2#32 []
    let w := after (exec .predictMb s)
    ((after (exec (I4Mode.dc.probe 0) s)).probeStat.getLsbD 1, (after (exec CMode.dc.probe s)).probeStat.getLsbD 1,
      (w.i4bestLo.extractLsb' 0 4).toNat, (w.result.extractLsb' 4 4).toNat, (w.result.extractLsb' 8 4).toNat) =
    (true, true, I4Mode.dc.num, I16Mode.dc.num, CMode.dc.num) := by decide +kernel

/-- DC is legal on any border, so the searches have a candidate; there may be another one. -/
theorem witness_SelectionsPickFirstCheapestLegal : I4Mode.legal .dc (borderE1 allBorders).av = true ∧
    I4Mode.legal .v (borderE1 allBorders).av = true ∧ I4Mode.num .v < I4Mode.num .dc := by decide

theorem witness_I4PassSelectsEachBlock : 0 < 16 ∧ 15 < 16 := by decide

/-- The first sample once its block is visited, the last sample when all are, and the samples next to the macroblock's first. -/
theorem witness_LumaSamplesOfVisitedBlocks :
    (1 ≤ 16 ∧ 0 < 16 ∧ blkIdx (0 / 4) (0 / 4) < 1) ∧ (16 ≤ 16 ∧ 15 < 16 ∧ blkIdx (15 / 4) (15 / 4) < 16) ∧
    ∀ p ∈ [(15, 16), (16, 15), (32, 31)], ¬(16 * (3 % 2) ≤ p.1 ∧ p.1 < 16 * (3 % 2) + 16 ∧ 16 * (3 / 2) ≤ p.2 ∧
      p.2 < 16 * (3 / 2) + 16) := by decide

theorem witness_SadIsADistance : ([0, 255] : List Byte).length = ([255, 0] : List Byte).length := rfl

theorem witness_I4ValuesNeedNoClipping : ∃ p : Predictor, (0 ≤ p.corner ∧ p.corner ≤ 255) ∧ (∀ v ∈ p.up, 0 ≤ v ∧ v ≤ 255) ∧
    ∀ v ∈ p.left, 0 ≤ v ∧ v ≤ 255 := ⟨borderE1 allBorders, by decide, by decide, by decide⟩

/-- A border of samples 255 of each of the three shapes. -/
theorem witness_ConstantBorderIsPredicted : ∀ q ∈ [(8, 4), (16, 16), (8, 8)], ∃ p : Predictor, p.corner = 255 ∧
    (∀ u ∈ p.up, u = 255) ∧ (∀ u ∈ p.left, u = 255) ∧ p.av.up = true ∧ p.av.left = true ∧ p.up.length = q.1 ∧
    p.left.length = q.2 := fun q _ =>
  ⟨{ corner := 255, up := List.replicate q.1 255, left := List.replicate q.2 255, av := allBorders }, rfl,
    fun _ h => (List.mem_replicate.1 h).2, fun _ h => (List.mem_replicate.1 h).2, rfl, rfl, by simp, by simp⟩

theorem witness_DiagonalModesMirror : 0 < 4 ∧ 3 < 4 := by decide

/-- The middle macroblock of a frame of three columns has all five neighbours. -/
theorem witness_AvailableNeighboursAreEarlier :
    0 < 3 ∧ mbAvail 3 4 = { up := true, left := true, upright := true, upleft := true, right := true } := by decide

/-- Macroblock 0 has none of the four borders and the last of a frame of 2 by 2 has three; block 3 of any macroblock, with an up
border, has no up-right one, and block 0 of the middle macroblock of three columns has all. The last indices of the borders. -/
theorem witness_BordersAreNeighbourSamplesOrDefault :
    (mbAvail 1 0).toAvail = { up := false, left := false, upright := false, upleft := false } ∧
    (mbAvail 2 3).toAvail = { up := true, left := true, upright := false, upleft := true } ∧
    blkAvail (mbAvail 1 0) 0 = { up := false, left := false, upright := false, upleft := false } ∧
    blkAvail (mbAvail 1 0) 3 = { up := true, left := true, upright := false, upleft := true } ∧
    blkAvail (mbAvail 3 4) 0 = allBorders ∧ (3 < 4 ∧ 4 ≤ 4 ∧ 7 < 8 ∧ 15 < 16) := by decide

/-- Another memory with the same SRC and the same samples of the macroblocks before 3: the first sample of macroblock 3 itself has
changed, and so has one below the frame. The sample at the corner, of macroblock 0, is the same in both. -/
theorem witness_PredictionReadsOnlyEarlierMacroblocks : ∃ (s : State) (m : Memory) (n : Nat), State.geometryOk s ∧
    n < s.mbCount.toNat ∧ m ≠ s.mem ∧
    (∀ i, i < 384 → Memory.readByte m (0x001000 + i) = s.mem.readByte (0x001000 + i)) ∧
    (∀ X Y, X < 16 * s.mbCols.toNat → Y / 16 * s.mbCols.toNat + X / 16 < n →
      Memory.readByte m (0x200000 + Y * (16 * s.mbCols.toNat) + X) =
        s.mem.readByte (0x200000 + Y * (16 * s.mbCols.toNat) + X)) ∧
    ∀ base X Y, base = 0x400000 ∨ base = 0x480000 → X < 8 * s.mbCols.toNat → Y / 8 * s.mbCols.toNat + X / 8 < n →
      Memory.readByte m (base + Y * (8 * s.mbCols.toNat) + X) = s.mem.readByte (base + Y * (8 * s.mbCols.toNat) + X) := by
  have h0 : ∀ a, a ≠ 0x200210 → a ≠ 0x200400 →
      Memory.readByte [(0x1000, 77), (0x2001EF, 25), (0x200210, 9), (0x200400, 9)] a =
        Memory.readByte [(0x1000, 77), (0x2001EF, 25)] a := by
    intro a h1 h2
    simp only [Memory.readByte, Ne.symm h1, Ne.symm h2, if_false]
  refine ⟨inFrame 2#32 [(0x1000, 77), (0x2001EF, 25)], [(0x1000, 77), (0x2001EF, 25), (0x200210, 9), (0x200400, 9)], 3,
    ⟨by decide, by decide, by decide, by decide, by decide⟩, by decide, by decide, fun i hi => h0 _ (by omega) (by omega), ?_, ?_⟩
  · intro X Y hX hn
    have hC : (inFrame 2#32 [(0x1000, 77), (0x2001EF, 25)]).mbCols.toNat = 2 := rfl
    rw [hC] at hX hn ⊢
    exact h0 _ (by omega) (by omega)
  · rintro base X Y (rfl | rfl) _ _ <;> exact h0 _ (by omega) (by omega)

/-- The three ways: a read, a `FRAME_INIT` that succeeds, a `PREDICT_MB` that succeeds. -/
theorem witness_OnlyFrameInitAndPredictMoveTheCursor :
    (∃ (t : State), step State.reset = .next t) ∧ (∃ (t : State), step (sized 16 16) = .next t ∧ t.nextMb = 0#16) ∧
    ∃ (t : State), step ready = .next t :=
  ⟨⟨_, rfl⟩, ⟨_, rfl, by decide⟩, exec_next .predictMb ready⟩

theorem witness_EngineNeverWritesItsInputs :
    (∃ (s : State) (t : State), s.script = [] ∧ step s = .next t) ∧
    ∃ (s : State) (t : State) (rest : List Event), s.script = .engine :: rest ∧ step s = .next t :=
  ⟨⟨sized 16 16, _, rfl, rfl⟩, ⟨{ sized 16 16 with script := [.engine] }, _, [], rfl, rfl⟩⟩

theorem witness_OnlyBusyWritesSetOvr : ∃ (s : State) (t : State), step s = .next t ∧ s.status.ovr = false ∧ t.status.ovr = true :=
  ⟨withEvent (opW32 0x010 64) (sized 16 16), _, rfl, rfl, by decide⟩

/-- The premises of the invariants' preservation: a state with a command in flight that meets every invariant, and its step. -/
theorem witness_StepKeeps : ∃ (s : State) (t : State), State.ok s ∧ s.inflight ≠ none ∧ step s = .next t := by
  refine ⟨sized 16 16, _, ⟨(by decide : Memory.wf []), fun c hc => (by cases hc), ⟨by decide, by decide, by decide, by decide⟩,
    ⟨by decide, by decide, by decide, by decide, by decide⟩, ?_, ?_, .inl rfl⟩, by decide, rfl⟩
  · intro l hl
    obtain rfl := Option.some.inj hl
    decide
  · exact ⟨by decide, by decide, by decide, by decide, by decide, by decide, by decide, by decide⟩

end Sys2Proof.Tests
end

section
/-! PROOFS. The state's registers (10_state.md): what each event leaves alone, what every step keeps, and what a host access of a
register reads and leaves. -/

namespace Sys2Proof.Machine

/-! ### Steps by their event -/

/-- A turn of the engine is taken in the state without that event, which a script with no event to come leaves as it is. -/
theorem step_engine {s : State} (h : s.script = [] ∨ ∃ rest, s.script = .engine :: rest) :
    step s = engineTurn { s with script := s.script.tail } := by
  rcases h with h | ⟨rest, h⟩
  · have hs : { s with script := s.script.tail } = s := by rw [h]; cases s; cases h; rfl
    rw [hs]; simp only [step, h]
  · simp only [step, h]; rfl

/-- Everything a step can be: a read, a write, the engine's turn or a reset event. -/
theorem step_cases {s t : State} (h : step s = .next t) :
    (∃ rest r d, t = { s with script := rest, bus := some r, draws := d }) ∨
      (∃ n off v rest, s.script = .write n off v :: rest ∧ t = ({ s with script := rest } : State).busWrite n off.toNat v) ∨
      ((s.script = [] ∨ ∃ rest, s.script = .engine :: rest) ∧ engineTurn { s with script := s.script.tail } = .next t) ∨
      ∃ cs rest, s.script = .reset cs :: rest ∧ t = ({ s with script := rest } : State).resetEvent cs := by
  cases hs : s.script with
  | nil => exact .inr (.inr (.inl ⟨.inl rfl, by rw [← h, step_engine (.inl hs), hs]⟩))
  | cons e rest =>
    simp only [step, hs] at h
    cases e with
    | read n off =>
      obtain ⟨r, d, hr⟩ := busRead_eq n off.toNat { s with script := rest }
      simp only [State.event, Host.Outcome.next.injEq, hr] at h
      exact .inl ⟨rest, r, d, h.symm⟩
    | write n off v =>
      simp only [State.event, Host.Outcome.next.injEq] at h
      exact .inr (.inl ⟨n, off, v, rest, rfl, h.symm⟩)
    | engine => exact .inr (.inr (.inl ⟨.inr ⟨rest, rfl⟩, h⟩))
    | reset cs =>
      simp only [State.event, Host.Outcome.next.injEq] at h
      exact .inr (.inr (.inr ⟨cs, rest, rfl, h.symm⟩))

/-- The engine's turn leaves an idle engine as it is, and ends a command in flight, of a legal word or not, in an error entry or
in the success of one of its results (45_commands.md R115, R116). -/
theorem engineTurn_ends {s t : State} (h : engineTurn s = .next t) :
    (s.inflight = none ∧ t = s) ∨ (∃ l e, s.inflight = some l ∧ t = s.raiseCmdError e) ∨
      ∃ l i u, s.inflight = some l ∧ decode l.word = .ok i ∧ Executed i l s u ∧ t = u.succeed := by
  rcases engineTurn_cases h with h | ⟨l, _, hl, -, ht⟩ | ⟨l, i, hl, hi, ⟨e, -, ht⟩ | ⟨u, -, hx, ht⟩⟩
  · exact .inl h
  · exact .inr (.inl ⟨l, .cmd, hl, ht⟩)
  · exact .inr (.inl ⟨l, e, hl, ht⟩)
  · exact .inr (.inr ⟨l, i, u, hl, hi, hx, ht⟩)

/-! ### What a host write leaves alone -/

/-- A write of a register reaches no geometry, cursor, cost or result register, and no memory (10_state.md R17 to R36). -/
theorem writeReg_frame (r : Reg) (v : Word) (s : State) :
    s.writeReg r v =
      { s with
        irqEn := (s.writeReg r v).irqEn
        bsrc := (s.writeReg r v).bsrc
        status := { (s.writeReg r v).status with frameValid := s.status.frameValid }
        frameW := (s.writeReg r v).frameW
        frameH := (s.writeReg r v).frameH
        mbIdx := (s.writeReg r v).mbIdx
        inflight := (s.writeReg r v).inflight } := by
  cases r <;> rfl

/-- No host write reaches a geometry, cursor, cost or result register (10_state.md R36, 20_memory.md R46). -/
theorem busWrite_frame (n : Width) (off : Nat) (v : Word) (s : State) :
    ∃ t : State, s.busWrite n off v =
      { s with
        irqEn := t.irqEn
        bsrc := t.bsrc
        status := { t.status with frameValid := s.status.frameValid }
        frameW := t.frameW
        frameH := t.frameH
        mbIdx := t.mbIdx
        mem := t.mem
        inflight := t.inflight
        bus := t.bus } := by
  refine ⟨s.busWrite n off v, ?_⟩
  rcases busWrite_cases n off v s with ⟨-, h⟩ | ⟨-, -, h⟩ | ⟨-, -, ⟨r, -, h⟩ | ⟨-, h⟩⟩
  · rw [h]; rfl
  · rw [h]; rfl
  · rw [h, writeReg_frame]; rfl
  · rw [h]; rfl

/-- A write of a register sets no `OVR` (10_state.md R22). -/
theorem writeReg_ovr {r : Reg} {v : Word} {s : State} (h : s.status.ovr = false) : (s.writeReg r v).status.ovr = false := by
  cases r <;> simp [State.writeReg, h]

/-! ### Geometry and the cursor -/

/-- A new frame within the limits has consistent geometry (10_state.md R25, 45_commands.md R118). -/
theorem geometryOk_startFrame {s : State}
    (hd : ¬(s.frameW.toNat = 0 ∨ s.frameH.toNat = 0 ∨ s.frameW.toNat % 16 ≠ 0 ∨ s.frameH.toNat % 16 ≠ 0))
    (hr : ¬(Config.maxW < s.frameW.toNat ∨ Config.maxH < s.frameH.toNat)) : s.startFrame.geometryOk := by
  simp only [Config.maxW, Config.maxH] at hr
  have hc : 0 < s.frameW.toNat / 16 ∧ s.frameW.toNat / 16 ≤ 120 := by omega
  have hw : 0 < s.frameH.toNat / 16 ∧ s.frameH.toNat / 16 ≤ 68 := by omega
  have hp : 0 < s.frameW.toNat / 16 * (s.frameH.toNat / 16) := Nat.mul_pos hc.1 hw.1
  have hl : s.frameW.toNat / 16 * (s.frameH.toNat / 16) ≤ 120 * 68 := Nat.mul_le_mul hc.2 hw.2
  have hcols : s.startFrame.mbCols.toNat = s.frameW.toNat / 16 := by
    simp only [State.startFrame_mbCols, BitVec.toNat_ofNat]; omega
  have hrows : s.startFrame.mbRows.toNat = s.frameH.toNat / 16 := by
    simp only [State.startFrame_mbRows, BitVec.toNat_ofNat]; omega
  have hcount : s.startFrame.mbCount.toNat = s.frameW.toNat / 16 * (s.frameH.toNat / 16) := by
    simp only [State.startFrame_mbCount, BitVec.toNat_ofNat]; exact Nat.mod_eq_of_lt (by omega)
  refine ⟨by rw [hcount, hcols, hrows], ?_, ?_, Nat.zero_le _, ?_⟩
  · rw [hcols]; simp only [Config.maxW]; omega
  · rw [hrows]; simp only [Config.maxH]; omega
  · simp only [State.startFrame_frameValid, hcount, hp]

/-- A commit of the next macroblock of the frame leaves the cursor within the frame (44_selection.md R113). -/
theorem geometryOk_commit {s : State} {l : Latch} {e : Evaluation} (h : s.geometryOk) (hc : l.idx.toNat < s.mbCount.toNat) :
    (s.commit l.bsrc l.idx.toNat e).geometryOk := by
  obtain ⟨hm, hw, hh, -, hv⟩ := h
  refine ⟨hm, hw, hh, ?_, hv⟩
  simp only [State.commit_nextMb, State.commit_mbCount, BitVec.toNat_ofNat]
  exact (Nat.mod_le _ _).trans hc

/-- A command that succeeds keeps the geometry consistent. -/
theorem Executed.geometryOk {i : Instr} {l : Latch} {s t : State} (hx : Executed i l s t) (h : s.geometryOk) : t.geometryOk := by
  cases hx with
  | nop => exact h
  | frame _ hd hr => exact geometryOk_startFrame hd hr
  | predict _ _ hc _ => exact geometryOk_commit h hc
  | probe => exact h

/-- The engine's turn keeps the geometry consistent; an error entry does not reach it. -/
theorem engineTurn_geometryOk {s t : State} (h : s.geometryOk) (ht : engineTurn s = .next t) : t.geometryOk := by
  rcases engineTurn_ends ht with ⟨-, rfl⟩ | ⟨_, _, -, rfl⟩ | ⟨_, _, u, -, -, hx, rfl⟩
  · exact h
  · exact h
  · exact hx.geometryOk h

theorem geometryOk_reset : State.reset.geometryOk := by simp [State.geometryOk, State.reset, Status.reset]

/-- Settles O58: no bus access reaches the geometry, `FRAME_INIT` begins a consistent frame, and the checks of `PREDICT_MB`
keep the cursor within the frame. -/
theorem stepKeepsGeometry : Obligations.StepKeepsGeometry := by
  intro s t hs h
  refine step_induction h hs (fun _ _ h => h) (fun _ _ _ h => h) (fun _ _ h ht => engineTurn_geometryOk h ht) ?_
    (fun _ _ _ => geometryOk_reset)
  intro s n off v hs
  obtain ⟨t, ht⟩ := busWrite_frame n off v s
  rw [ht]
  exact hs

/-- The next macroblock index after a committed one, in the 16 bits of `NEXT_MB` (10_state.md R26). -/
theorem nextMb_succ (x : Half) : BitVec.ofNat 16 (x.toNat + 1) = x + 1#16 := by
  apply BitVec.eq_of_toNat_eq
  simp [BitVec.toNat_add]

/-- A turn of the engine that moves the cursor or the geometry is a `FRAME_INIT` or a `PREDICT_MB` that succeeds. -/
theorem engineTurn_cursor {s t : State} (h : engineTurn s = .next t) :
    (t.nextMb = s.nextMb ∧ t.mbCols = s.mbCols ∧ t.mbRows = s.mbRows ∧ t.mbCount = s.mbCount) ∨
      ∃ l, s.inflight = some l ∧ t.status.done = true ∧
        ((decode l.word = .ok .frameInit ∧ t.nextMb = 0#16) ∨
          (decode l.word = .ok .predictMb ∧ l.idx = s.nextMb ∧ t.nextMb = s.nextMb + 1#16 ∧ t.mbCols = s.mbCols ∧
            t.mbRows = s.mbRows ∧ t.mbCount = s.mbCount)) := by
  rcases engineTurn_ends h with ⟨-, rfl⟩ | ⟨_, _, -, rfl⟩ | ⟨l, i, u, hl, hi, hx, rfl⟩
  · exact .inl ⟨rfl, rfl, rfl, rfl⟩
  · exact .inl ⟨rfl, rfl, rfl, rfl⟩
  · cases hx with
    | nop => exact .inl ⟨rfl, rfl, rfl, rfl⟩
    | frame hf => subst hf; exact .inr ⟨l, hl, rfl, .inl ⟨hi, rfl⟩⟩
    | predict hp _ _ hn =>
      subst hp
      exact .inr ⟨l, hl, rfl, .inr ⟨hi, hn, hn ▸ nextMb_succ l.idx, rfl, rfl, rfl⟩⟩
    | probe => exact .inl ⟨rfl, rfl, rfl, rfl⟩

/-- Settles O51: bus accesses do not reach the cursor or the geometry, and on the engine's turn only two commands do. -/
theorem onlyFrameInitAndPredictMoveTheCursor : Obligations.OnlyFrameInitAndPredictMoveTheCursor := by
  intro s t h
  rcases step_cases h with ⟨_, _, _, rfl⟩ | ⟨n, off, v, rest, -, rfl⟩ | ⟨hturn, ht⟩ | ⟨cs, rest, hs, -⟩
  · exact .inl ⟨rfl, rfl, rfl, rfl⟩
  · obtain ⟨t, ht⟩ := busWrite_frame n off.toNat v { s with script := rest }
    rw [ht]
    exact .inl ⟨rfl, rfl, rfl, rfl⟩
  · rcases engineTurn_cursor ht with hk | ⟨l, hl, hdone, hc⟩
    · exact .inl hk
    · exact .inr (.inr ⟨l, hl, hturn, hdone, hc⟩)
  · exact .inr (.inl ⟨cs, rest, hs⟩)

/-! ### Costs and `RESULT` -/

/-- The sixteen `I4COST` registers hold the block costs (10_state.md R35, 44_selection.md R112). -/
theorem map_toNat_i4CostVector {cs : List Candidate} (hl : cs.length = 16) (hc : ∀ c ∈ cs, c.cost ≤ 4080) :
    (i4CostVector cs).toList.map BitVec.toNat = cs.map Candidate.cost := by
  have hv : (i4CostVector cs).toList = (List.range 16).map (i4CostAt cs) := rfl
  rw [hv, List.map_map]
  apply List.ext_getElem (by simp [hl])
  intro k h₁ h₂
  have hk : k < cs.length := by simpa using h₂
  have := hc cs[k] (List.getElem_mem hk)
  simp [i4CostAt, hk]
  omega

/-- The cost registers after a commit (10_state.md R31, R32, R35, 44_selection.md R106). -/
theorem costsOk_commit {s : State} {b : Bool} {n : Nat} {e : Evaluation} (he : e.Bounded) (h : s.probeSad.toNat ≤ 65280) :
    (s.commit b n e).costsOk := by
  have hsum := map_toNat_i4CostVector he.count he.cost4
  have h4 := he.cost4_le
  have h16 := he.cost16
  have hcb := he.costCb
  have hcr := he.costCr
  have t4 : (BitVec.ofNat 32 e.cost4).toNat = e.cost4 := by rw [BitVec.toNat_ofNat]; omega
  have t16 : (BitVec.ofNat 32 e.i16.cost).toNat = e.i16.cost := by rw [BitVec.toNat_ofNat]; omega
  refine ⟨fun k => ?_, ?_, ?_, ?_, ?_, ?_, ?_, h⟩
  · have hk : (i4CostVector e.i4)[k].toNat ∈ (i4CostVector e.i4).toList.map BitVec.toNat :=
      List.mem_map_of_mem (Vector.mem_toList_iff.2 (Vector.getElem_mem k.isLt))
    rw [hsum] at hk
    obtain ⟨c, hc, hck⟩ := List.mem_map.1 hk
    simp only [State.commit_i4cost, ← hck]
    exact he.cost4 c hc
  · simp only [State.commit_costI4, State.commit_i4cost, hsum, t4]; rfl
  · simp only [State.commit_costI16, t16]; exact h16
  · simp only [State.commit_costLuma, State.commit_costI4, State.commit_costI16, t4, t16]
    rw [e.costL_eq, apply_ite (BitVec.ofNat 32)]; rfl
  · simp only [State.commit_costCb, BitVec.toNat_ofNat]; omega
  · simp only [State.commit_costCr, BitVec.toNat_ofNat]; omega
  · simp only [State.commit_costChroma, State.commit_costCb, State.commit_costCr, CCandidate.cost, BitVec.toNat_ofNat]; omega

/-- A flag at its weight in a word, from what the flag says. -/
theorem toNat_mul_of_iff {b : Bool} {p : Prop} [Decidable p] (h : b = true ↔ p) (k : Nat) :
    b.toNat * k = if p then k else 0 := by
  by_cases hp : p
  · simp [hp, h.2 hp]
  · simp [hp, Bool.eq_false_iff.2 (mt h.1 hp)]

/-- `RESULT` after a commit says what the cost registers say (10_state.md R29, 44_selection.md R106, R107). -/
theorem resultOk_commit {s : State} {b : Bool} {n : Nat} {e : Evaluation} (he : e.Bounded) : (s.commit b n e).resultOk := by
  refine .inr ⟨e.i16.mode, e.c.mode, he.mode16, he.modeC, ?_⟩
  have h4 : e.cost4 < 2 ^ 32 := he.cost4_le.trans_lt (by decide)
  have h16 : e.i16.cost < 2 ^ 32 := he.cost16.trans_lt (by decide)
  have hC : e.c.cost < 2 ^ 32 := by
    have := he.costCb
    have := he.costCr
    simp only [CCandidate.cost]; omega
  have hL : e.costL < 2 ^ 32 := by unfold Evaluation.costL; split <;> assumption
  have hi : e.isI16.toNat * 2 = if e.cost4 < e.i16.cost then 0 else 2 := by
    rw [toNat_mul_of_iff e.isI16_iff 2, ite_not]; rfl
  have hp : e.pcm.toNat * 4 = if 2000 < e.costL ∨ 1000 < e.c.cost then 4 else 0 := toNat_mul_of_iff e.pcm_iff 4
  simp only [State.commit_result, State.commit_costI4, State.commit_costI16, State.commit_costLuma, State.commit_costChroma,
    toNat_resultWord he, BitVec.toNat_ofNat, Nat.mod_eq_of_lt h4, Nat.mod_eq_of_lt h16, Nat.mod_eq_of_lt hL,
    Nat.mod_eq_of_lt hC, hi, hp]
  omega

/-- Registers all 0 are consistent, so after a reset and after `FRAME_INIT` (45_commands.md R118) they are. -/
theorem costsOk_reset : State.reset.costsOk := by
  unfold State.costsOk; decide

/-- A command that succeeds keeps the cost registers and `RESULT` consistent. -/
theorem Executed.costsOk_resultOk {i : Instr} {l : Latch} {s t : State} (hx : Executed i l s t) (hc : s.costsOk)
    (hr : s.resultOk) : t.costsOk ∧ t.resultOk := by
  obtain ⟨h4, hsum, h16, hL, hcb, hcr, hC, hp⟩ := hc
  cases hx with
  | nop => exact ⟨⟨h4, hsum, h16, hL, hcb, hcr, hC, hp⟩, hr⟩
  | frame => exact ⟨costsOk_reset, .inl rfl⟩
  | predict => exact ⟨costsOk_commit (evaluate_bounded _ _ _) hp, resultOk_commit (evaluate_bounded _ _ _)⟩
  | probe _ _ _ r hb =>
    refine ⟨⟨h4, hsum, h16, hL, hcb, hcr, hC, ?_⟩, hr⟩
    simp only [State.recordProbe_probeSad, BitVec.toNat_ofNat]
    exact (Nat.mod_le _ _).trans hb.sad

/-- The engine's turn keeps them consistent; an error entry does not reach them. -/
theorem engineTurn_costsOk_resultOk {s t : State} (hc : s.costsOk) (hr : s.resultOk) (ht : engineTurn s = .next t) :
    t.costsOk ∧ t.resultOk := by
  rcases engineTurn_ends ht with ⟨-, rfl⟩ | ⟨_, _, -, rfl⟩ | ⟨_, _, u, -, -, hx, rfl⟩
  · exact ⟨hc, hr⟩
  · exact ⟨hc, hr⟩
  · exact hx.costsOk_resultOk hc hr

/-- Settles O60: only the engine writes the cost registers and `RESULT`, and a commit takes them all from one evaluation in
bounds. -/
theorem stepKeepsCostsConsistent : Obligations.StepKeepsCostsConsistent := by
  intro s t hc hr h
  refine step_induction (P := fun s => s.costsOk ∧ s.resultOk) h ⟨hc, hr⟩ (fun _ _ h => h) (fun _ _ _ h => h)
    (fun _ _ h ht => engineTurn_costsOk_resultOk h.1 h.2 ht) ?_ (fun _ _ _ => ⟨costsOk_reset, .inl rfl⟩)
  intro s n off v hs
  obtain ⟨t, ht⟩ := busWrite_frame n off v s
  rw [ht]
  exact hs

end Sys2Proof.Machine
end

section
/-! PROOFS. `STATUS` (10_state.md R19 to R23) and the accesses of single registers (R15 to R36). -/

namespace Sys2Proof.Machine

/-! ### `STATUS` -/

/-- A bit of a word, from the word's value. -/
theorem getLsbD_of_div {w : Word} {k : Nat} {b : Bool} (h : w.toNat / 2 ^ k % 2 = b.toNat) : w.getLsbD k = b := by
  rw [getLsbD_eq_div, h]
  cases b <;> rfl

/-- A field of a word, from the word's value. -/
theorem extractLsb'_of_div {w : Word} {lo len : Nat} {x : BitVec len} (h : w.toNat / 2 ^ lo % 2 ^ len = x.toNat) :
    w.extractLsb' lo len = x :=
  BitVec.eq_of_toNat_eq ((extractLsb'_toNat_bitField w lo len).trans h)

/-- The widths of the fields of `STATUS` (10_state.md R19 to R23). -/
theorem statusFields_le (s : State) :
    s.busy.toNat ≤ 1 ∧ s.status.done.toNat ≤ 1 ∧ s.status.err.toNat ≤ 1 ∧ s.status.ovr.toNat ≤ 1 ∧
      s.status.errcode.toNat < 16 ∧ s.status.frameValid.toNat ≤ 1 ∧ s.frameDone.toNat ≤ 1 ∧ s.status.lastop.toNat < 16 :=
  ⟨Bool.toNat_le _, Bool.toNat_le _, Bool.toNat_le _, Bool.toNat_le _, BitVec.isLt _, Bool.toNat_le _, Bool.toNat_le _,
    BitVec.isLt _⟩

/-- `STATUS` as a number (10_state.md R19 to R23). -/
theorem toNat_statusWord (s : State) :
    s.statusWord.toNat =
      s.busy.toNat + 2 * s.status.done.toNat + 4 * s.status.err.toNat + 8 * s.status.ovr.toNat +
        16 * s.status.errcode.toNat + 256 * s.status.frameValid.toNat + 512 * s.frameDone.toNat +
        4096 * s.status.lastop.toNat := by
  obtain ⟨hbusy, hdone, herr, hovr, hcode, hvalid, hfd, hop⟩ := statusFields_le s
  simp only [State.statusWord, bitAt_eq, BitVec.toNat_ofNat]
  omega

/-- Settles O16: each field is read off the word's value, in which the fields do not overlap. -/
theorem statusWordFields : Obligations.StatusWordFields := by
  intro s
  have hw := toNat_statusWord s
  obtain ⟨hbusy, hdone, herr, hovr, hcode, hvalid, hfd, hop⟩ := statusFields_le s
  have h9 : s.statusWord.getLsbD 9 = s.frameDone := getLsbD_of_div (by omega)
  refine ⟨getLsbD_of_div (b := s.busy) ?_, getLsbD_of_div ?_, getLsbD_of_div ?_, getLsbD_of_div ?_, extractLsb'_of_div ?_,
    getLsbD_of_div ?_, by rw [h9]; simp [State.frameDone], extractLsb'_of_div (by rw [BitVec.toNat_zero]; omega),
    extractLsb'_of_div ?_, extractLsb'_of_div (by rw [BitVec.toNat_zero]; omega)⟩
  all_goals omega

/-! ### What the engine leaves alone -/

/-- No command writes a byte of SRC (10_state.md R37). -/
theorem Executed.readByte_src {i : Instr} {l : Latch} {s t : State} (hx : Executed i l s t) {a : Nat} (h₁ : 0x001000 ≤ a)
    (h₂ : a < 0x001180) : t.mem.readByte a = s.mem.readByte a := by
  cases hx with
  | nop => rfl
  | frame => rfl
  | predict =>
    refine readByte_commitMem_other (evaluate_bounded _ _ _) (by omega) (by omega) (by omega) ?_ ?_ ?_
    all_goals intro x y _ _; simp only [planeAt, dntYBase, dntCbBase, dntCrBase]; omega
  | probe _ _ _ r hb =>
    have := hb.low
    exact Memory.readByte_writeRun_other (.inl (by simp only [probeBase] at this; omega))

/-- Settles O52: the engine's turn ends at once, in the error entry or in a command's result, none of which reaches SRC or the
host's registers. -/
theorem engineNeverWritesItsInputs : Obligations.EngineNeverWritesItsInputs := by
  intro s t hturn h
  rw [step_engine hturn] at h
  rcases engineTurn_ends h with ⟨-, rfl⟩ | ⟨_, _, -, rfl⟩ | ⟨_, _, u, -, -, hx, rfl⟩
  · exact ⟨fun _ _ _ => rfl, rfl, rfl, rfl, rfl, rfl, rfl, rfl⟩
  · exact ⟨fun _ _ _ => rfl, rfl, rfl, rfl, rfl, rfl, rfl, rfl⟩
  · obtain ⟨-, -, -, hirq, hbsrc, hidx, hfw, hfh, -, hst⟩ := hx.untouched
    refine ⟨fun _ h₁ h₂ => hx.readByte_src h₁ h₂, hirq, hbsrc, hidx, hfw, hfh, ?_, ?_⟩
    · rw [State.succeed_ovr, hst]
    · rw [State.succeed_lastop, hst]

/-! ### `OVR` -/

/-- The engine's turn leaves `OVR` alone (10_state.md R22). -/
theorem engineTurn_ovr {s t : State} (h : engineTurn s = .next t) : t.status.ovr = s.status.ovr := by
  rcases engineTurn_ends h with ⟨-, rfl⟩ | ⟨_, _, -, rfl⟩ | ⟨_, _, u, -, -, hx, rfl⟩
  · rfl
  · rfl
  · obtain ⟨-, -, -, -, -, -, -, -, -, hst⟩ := hx.untouched
    rw [State.succeed_ovr, hst]

/-- A host write that takes `OVR` from 0 to 1 is one the access table lets through and a busy engine drops (60_exceptions.md
R128). -/
theorem busWrite_sets_ovr {n : Width} {off : Nat} {v : Word} {s : State} (h0 : s.status.ovr = false)
    (h1 : (s.busWrite n off v).status.ovr = true) : s.inflight.isSome = true ∧ accessOk true n off = true := by
  rcases busWrite_cases n off v s with ⟨-, hw⟩ | ⟨ha, hb, -⟩ | ⟨-, -, ⟨r, -, hw⟩ | ⟨-, hw⟩⟩
  · rw [hw, State.answer_status, h0] at h1; cases h1
  · exact ⟨hb, ha⟩
  · rw [hw, State.answer_status, writeReg_ovr h0] at h1; cases h1
  · rw [hw, State.answer_status, State.setMem_status, h0] at h1; cases h1

/-- Settles O53: of all a step can be, only the write that is dropped while busy takes `OVR` from 0 to 1. -/
theorem onlyBusyWritesSetOvr : Obligations.OnlyBusyWritesSetOvr := by
  intro s t h h0 h1
  rcases step_cases h with ⟨_, _, _, rfl⟩ | ⟨n, off, v, rest, hs, rfl⟩ | ⟨-, ht⟩ | ⟨_, _, -, rfl⟩
  · exact absurd (h0.symm.trans h1) Bool.false_ne_true
  · obtain ⟨hb, ha⟩ := busWrite_sets_ovr (s := { s with script := rest }) h0 h1
    exact ⟨hb, n, off, v, rest, hs, ha⟩
  · exact absurd ((engineTurn_ovr ht).trans h0 |>.symm.trans h1) Bool.false_ne_true
  · exact absurd h1 Bool.false_ne_true

/-! ### The status invariant -/

/-- An issue clears both flags (45_commands.md R114). -/
theorem statusOk_issue (w : Word) (s : State) : (s.issue w).statusOk := by simp [State.statusOk]

/-- A command in flight has both flags clear, so success leaves only `DONE` (45_commands.md R115). -/
theorem statusOk_succeed {s : State} (h : s.statusOk) (hb : s.busy = true) : s.succeed.statusOk := by
  obtain ⟨-, hcode, hle, hbusy⟩ := h
  exact ⟨by simp [(hbusy hb).2], hcode, hle, by simp [State.busy]⟩

/-- A command in flight has both flags clear, so the error entry leaves only `ERR`, with a code of 1 to 6 (60_exceptions.md
R124, R129). -/
theorem statusOk_raiseCmdError {s : State} (e : CmdError) (h : s.statusOk) (hb : s.busy = true) :
    (s.raiseCmdError e).statusOk := by
  obtain ⟨-, -, -, hbusy⟩ := h
  refine ⟨by simp [(hbusy hb).1], ?_, ?_, by simp [State.busy]⟩
  · cases e <;> simp [CmdError.code]
  · cases e <;> simp [CmdError.code]

/-- Clearing bits of an idle engine's `STATUS` takes `ERRCODE` with `ERR` (10_state.md R21). -/
theorem statusOk_clearStatus {s : State} (v : Word) (h : s.statusOk) (hn : s.inflight = none) : (s.clearStatus v).statusOk := by
  obtain ⟨hboth, hcode, hle, -⟩ := h
  refine ⟨?_, ?_, ?_, by simp [State.busy, hn]⟩
  · simp only [State.clearStatus_done, State.clearStatus_err, Bool.and_eq_true]
    exact fun h => hboth ⟨h.1.1, h.2.1⟩
  · rw [State.clearStatus_errcode, State.clearStatus_err]
    cases v.getLsbD 2 <;> simp [hcode]
  · rw [State.clearStatus_errcode]
    split
    · exact Nat.zero_le _
    · exact hle

/-- A write of a register of an idle engine keeps the status invariant: only `CMD` and `STATUS` reach it. -/
theorem statusOk_writeReg {s : State} (r : Reg) (v : Word) (h : s.statusOk) (hn : s.inflight = none) :
    (s.writeReg r v).statusOk := by
  cases r
  case cmd => exact statusOk_issue v s
  case status => exact statusOk_clearStatus v h hn
  all_goals exact h

/-- A host write keeps the status invariant (10_state.md R20 to R22). -/
theorem statusOk_busWrite {s : State} (n : Width) (off : Nat) (v : Word) (h : s.statusOk) : (s.busWrite n off v).statusOk := by
  rcases busWrite_cases n off v s with ⟨-, hw⟩ | ⟨-, -, hw⟩ | ⟨-, hn, ⟨r, -, hw⟩ | ⟨-, hw⟩⟩
  · rw [hw]; exact h
  · rw [hw]; exact h
  · rw [hw]; exact statusOk_writeReg r v h hn
  · rw [hw]; exact h

/-- A command leaves the flags, and `BUSY`, to its completion. -/
theorem Executed.statusOk_busy {i : Instr} {l : Latch} {s t : State} (hx : Executed i l s t) (h : s.statusOk)
    (hb : s.busy = true) : t.statusOk ∧ t.busy = true := by
  obtain ⟨-, -, -, -, -, -, -, -, hin, hst⟩ := hx.untouched
  unfold State.statusOk State.busy
  rw [hst, hin]
  exact ⟨h, hb⟩

/-- The engine's turn keeps the status invariant. -/
theorem engineTurn_statusOk {s t : State} (h : s.statusOk) (ht : engineTurn s = .next t) : t.statusOk := by
  rcases engineTurn_ends ht with ⟨-, rfl⟩ | ⟨l, e, hl, rfl⟩ | ⟨l, _, u, hl, -, hx, rfl⟩
  · exact h
  · exact statusOk_raiseCmdError e h (by simp [State.busy, hl])
  · obtain ⟨hu, hb⟩ := hx.statusOk_busy h (by simp [State.busy, hl])
    exact statusOk_succeed hu hb

theorem statusOk_reset : State.reset.statusOk := by simp [State.statusOk, State.reset, Status.reset, State.busy]

/-- Settles O57: an issue clears the flags, a completion sets one of them, and a write of `STATUS` clears `ERR` and `ERRCODE`
together. -/
theorem stepKeepsStatusConsistent : Obligations.StepKeepsStatusConsistent := by
  intro s t hs h
  exact step_induction h hs (fun _ _ h => h) (fun _ _ _ h => h) (fun _ _ h ht => engineTurn_statusOk h ht)
    (fun _ n off v h => statusOk_busWrite n off v h) (fun _ _ _ => statusOk_reset)

/-! ### Registers by their offset -/

/-- The offset R15 lists a register at (10_state.md R15). -/
def Reg.offset : Reg → Nat
  | .id => 0x000
  | .ctrl => 0x004
  | .cmd => 0x008
  | .status => 0x00C
  | .frameW => 0x010
  | .frameH => 0x014
  | .mbCols => 0x018
  | .mbRows => 0x01C
  | .mbCount => 0x020
  | .nextMb => 0x024
  | .mbIdx => 0x028
  | .avail => 0x02C
  | .result => 0x030
  | .i4bestLo => 0x034
  | .i4bestHi => 0x038
  | .costI16 => 0x03C
  | .costI4 => 0x040
  | .costLuma => 0x044
  | .costChroma => 0x048
  | .costCb => 0x04C
  | .costCr => 0x050
  | .probeSad => 0x054
  | .probeStat => 0x058
  | .thrLuma => 0x05C
  | .thrChroma => 0x060
  | .i4cost k => 0x080 + 4 * k.val

/-- Each register is found at its offset. -/
theorem regAt_offset (r : Reg) : regAt r.offset = some r := by
  cases r
  case i4cost k => revert k; decide
  all_goals rfl

/-- A register found at an offset is the one of that offset. -/
theorem offset_of_regAt {off : Nat} {r : Reg} (h : regAt off = some r) : off = r.offset := by
  unfold regAt at h
  split at h
  case h_26 =>
    split at h
    · next hr =>
      simp only [Bool.and_eq_true, inRange_iff, decide_eq_true_eq] at hr
      cases h
      simp only [Reg.offset, Fin.ofNat]
      omega
    · cases h
  all_goals cases h; rfl

theorem Reg.offset_aligned (r : Reg) : r.offset % 4 = 0 := (regAt_isSome _).1 (by rw [regAt_offset]; rfl) |>.1

/-- Every register lies in the register region (20_memory.md R52). -/
theorem regionOf_offset (r : Reg) : regionOf r.offset = some .registers := by
  have h := (regAt_isSome r.offset).1 (by rw [regAt_offset]; rfl)
  unfold regionOf
  rw [if_pos (inRange_iff.2 ⟨Nat.zero_le _, by omega⟩)]

/-- A register takes 32-bit accesses in both directions (20_memory.md R47, R49). -/
theorem accessOk_offset (isWrite : Bool) (r : Reg) : accessOk isWrite .w32 r.offset = true := by
  simp [accessOk, regionOf_offset, regAt_offset, Width.bytes, r.offset_aligned]

/-! ### Accesses of registers -/

/-- A read of a register, of any at an idle engine and of the busy-readable ones always (10_state.md R15, 20_memory.md R50). -/
theorem step_read_reg {s : State} {off : BitVec 23} {rest : List Event} (hs : s.script = .read .w32 off :: rest) (r : Reg)
    (hr : off.toNat = r.offset) (hb : s.inflight = none ∨ r.busyReadable = true) :
    step s = .next { s with script := rest, bus := some (.readOk (s.readReg r)) } := by
  have hv : s.readValue .w32 off.toNat = s.readReg r := by simp [State.readValue, hr, regionOf_offset, regAt_offset]
  rw [step_read hs (by rw [hr]; exact accessOk_offset false r), hv]
  rw [hr]
  simpa [busyReadable, regionOf_offset, regAt_offset] using hb

/-- A write of a register of an idle engine (20_memory.md R46). -/
theorem step_write_reg {s : State} {off : BitVec 23} {v : Word} {rest : List Event} (hs : s.script = .write .w32 off v :: rest)
    (hn : s.inflight = none) (r : Reg) (hr : off.toNat = r.offset) :
    step s = .next ((({ s with script := rest } : State).writeReg r v).answer .writeOk) := by
  rw [step_write hs (by rw [hr]; exact accessOk_offset true r) hn, hr, regAt_offset]

/-- Settles O14: the access table lets the write through, and the busy engine drops it. -/
theorem busyWriteIsAnOverrun : Obligations.BusyWriteIsAnOverrun := by
  intro s l n off v rest hl ha hs
  simp only [step, hs, State.event]
  rcases busWrite_cases n off.toNat v { s with script := rest } with ⟨hf, -⟩ | ⟨-, -, hw⟩ | ⟨-, hn, -⟩
  · rw [ha] at hf; cases hf
  · rw [hw]; rfl
  · rw [hl] at hn; cases hn

/-- Settles O15: each offset is that of its register, and a read returns what the register reads as. -/
theorem registersRead : Obligations.RegistersRead := by
  intro s rest off v hs h
  have always (r : Reg) (hr : off.toNat = r.offset) (hb : r.busyReadable = true) (hv : v = s.readReg r) :
      step s = .next { s with script := rest, bus := some (.readOk v) } := hv ▸ step_read_reg hs r hr (.inr hb)
  rcases h with ⟨rfl, hv⟩ | ⟨rfl, hv⟩ | ⟨rfl, hv⟩ | ⟨rfl, hv⟩ | ⟨rfl, hv⟩ | ⟨rfl, hv⟩ | ⟨rfl, hv⟩ | ⟨rfl, hv⟩ | ⟨rfl, hv⟩ |
    ⟨rfl, hv⟩ | ⟨rfl, hv⟩ | ⟨rfl, hv⟩ | ⟨rfl, hv⟩ | ⟨hn, h⟩
  · exact always .id rfl rfl hv
  · exact always .ctrl rfl rfl hv
  · exact always .cmd rfl rfl hv
  · exact always .status rfl rfl hv
  · exact always .frameW rfl rfl hv
  · exact always .frameH rfl rfl hv
  · exact always .mbCols rfl rfl hv
  · exact always .mbRows rfl rfl hv
  · exact always .mbCount rfl rfl hv
  · exact always .nextMb rfl rfl hv
  · exact always .mbIdx rfl rfl hv
  · exact always .thrLuma rfl rfl hv
  · exact always .thrChroma rfl rfl hv
  have idle (r : Reg) (hr : off.toNat = r.offset) (hv : v = s.readReg r) :
      step s = .next { s with script := rest, bus := some (.readOk v) } := hv ▸ step_read_reg hs r hr (.inl hn)
  rcases h with ⟨rfl, hv⟩ | ⟨rfl, hv⟩ | ⟨rfl, hv⟩ | ⟨rfl, hv⟩ | ⟨rfl, hv⟩ | ⟨rfl, hv⟩ | ⟨rfl, hv⟩ | ⟨rfl, hv⟩ | ⟨rfl, hv⟩ |
    ⟨rfl, hv⟩ | ⟨rfl, hv⟩ | ⟨rfl, hv⟩ | ⟨k, hk, hv⟩
  · exact idle .avail rfl hv
  · exact idle .result rfl hv
  · exact idle .i4bestLo rfl hv
  · exact idle .i4bestHi rfl hv
  · exact idle .costI16 rfl hv
  · exact idle .costI4 rfl hv
  · exact idle .costLuma rfl hv
  · exact idle .costChroma rfl hv
  · exact idle .costCb rfl hv
  · exact idle .costCr rfl hv
  · exact idle .probeSad rfl hv
  · exact idle .probeStat rfl hv
  · exact idle (.i4cost k) hk hv

/-- A flag after a write of `b` to its write-one-to-clear bit (10_state.md R20 to R22). -/
theorem and_not_eq_ite (a b : Bool) : (a && !b) = if b then false else a := by cases b <;> simp

/-- Settles O17: the write reaches `STATUS`, whose clearing it is. -/
theorem statusWriteOneToClear : Obligations.StatusWriteOneToClear := by
  intro s v rest hn hs
  rw [step_write_reg hs hn .status rfl]
  simp only [State.writeReg, State.clearStatus, and_not_eq_ite]
  rfl

/-- Bits [15:0] of a written value, as a 16-bit register reads back. -/
theorem setWidth_16_32 (v : Word) : (v.setWidth 16).setWidth 32 = v &&& 0x0000FFFF#32 := by
  apply BitVec.eq_of_toNat_eq
  have := Nat.and_two_pow_sub_one_eq_mod v.toNat 16
  simp at *
  omega

/-- `CTRL` reads its two fields (10_state.md R17). -/
theorem ctrlWord_of_bits {s : State} {v : Word} (hi : s.irqEn = v.getLsbD 0) (hb : s.bsrc = v.getLsbD 1) :
    s.ctrlWord = v &&& 0x00000003#32 := by
  apply BitVec.eq_of_toNat_eq
  have h3 : v.toNat &&& 3 = v.toNat % 4 := Nat.and_two_pow_sub_one_eq_mod v.toNat 2
  simp only [State.ctrlWord, bitAt, hi, hb, getLsbD_eq_div, decide_eq_true_eq, BitVec.toNat_ofNat, BitVec.toNat_and,
    show 3 % 2 ^ 32 = 3 from rfl, h3]
  split_ifs <;> omega

/-- A write of a read-only register is ignored (10_state.md R36). -/
theorem writeReg_readOnly {r : Reg} (v : Word) (s : State) (h : r ∉ [.ctrl, .cmd, .status, .frameW, .frameH, .mbIdx]) :
    s.writeReg r v = s := by
  cases r <;> simp [State.writeReg] at h ⊢

/-- Settles O18: each RW register takes its own fields of the value, and a RO register none. -/
theorem registerWrites : Obligations.RegisterWrites := by
  intro s v off rest hn hs
  refine ⟨?_, ?_, ?_, ?_, ?_⟩
  · rintro rfl
    exact ⟨_, step_write_reg hs hn .ctrl rfl, rfl, ctrlWord_of_bits rfl rfl⟩
  · rintro rfl
    exact ⟨_, step_write_reg hs hn .frameW rfl, rfl, setWidth_16_32 v⟩
  · rintro rfl
    exact ⟨_, step_write_reg hs hn .frameH rfl, rfl, setWidth_16_32 v⟩
  · rintro rfl
    exact ⟨_, step_write_reg hs hn .mbIdx rfl, rfl, setWidth_16_32 v⟩
  · intro h4 hoff
    have hoff := hoff.imp_left (congrArg BitVec.toNat)
    simp only [BitVec.toNat_ofNat] at hoff
    obtain ⟨r, hr⟩ := Option.isSome_iff_exists.1 ((regAt_isSome off.toNat).2 ⟨h4, by omega⟩)
    have hr := offset_of_regAt hr
    rw [step_write_reg hs hn r hr, writeReg_readOnly]
    · rfl
    · simp only [List.mem_cons, List.not_mem_nil, or_false]
      rintro (rfl | rfl | rfl | rfl | rfl | rfl) <;> simp only [Reg.offset] at hr <;> omega

end Sys2Proof.Machine
end

section
/-! PROOFS. The aperture and its memories (20_memory.md R46 to R59): which accesses are answered, what an access of a window reads
and stores, what no read and no bus error changes, and what every step keeps of the memories and of the latch in flight. -/

namespace Sys2Proof.Machine

/-! ### The access table -/

/-- Settles O11: each region allows its own widths and directions, and the listed registers are those of the map. -/
theorem accessTableOfTheMap : Obligations.AccessTableOfTheMap := by
  intro isWrite n off
  have hreg := regAt_isSome off
  have hword : n = .w32 → n.bytes = 4 := fun h => h ▸ rfl
  rcases regionOf_cases off with ⟨a, h⟩ | ⟨a, b, h⟩ | ⟨a, b, h⟩ | ⟨a, b, h⟩ | ⟨a, b, h⟩ | ⟨a, b, h⟩ | ⟨a, h⟩ | ⟨a, h⟩
  all_goals
    simp only [accessOk, h, Bool.and_eq_true, decide_eq_true_eq, Bool.not_eq_true', Bool.false_eq_true, and_true, and_false,
      false_iff, hreg]
    grind

/-- A write that is allowed outside the registers stores bytes of SRC or of the DNT alone (20_memory.md R47). -/
theorem isMemory_of_write {n : Width} {off a : Nat} (h : accessOk true n off = true) (hr : regAt off = none) (h₁ : off ≤ a)
    (h₂ : a < off + n.bytes) : isMemory a = true := by
  obtain ⟨halign, h⟩ := (accessTableOfTheMap true n off).1 h
  have hreg : ¬(off % 4 = 0 ∧ (off ≤ 0x060 ∨ (0x080 ≤ off ∧ off ≤ 0x0BF))) := by
    rw [← regAt_isSome, hr]
    exact Bool.false_ne_true
  rw [isMemory_iff]
  cases n <;> simp only [Width.bytes, reduceCtorEq, false_and, false_or, Bool.true_eq_false, true_and] at halign h h₂ <;> omega

/-! ### Stored bytes lie in the map -/

/-- A store of bytes that lie in memory keeps every listed byte in memory. -/
theorem mapped_writeRun {a : Nat} {bs : List Byte} {m : Memory} (hm : ∀ c ∈ m, isMemory c.1 = true)
    (ha : ∀ x, a ≤ x → x < a + bs.length → isMemory x = true) : ∀ c ∈ m.writeRun a bs, isMemory c.1 = true := by
  intro c hc
  rcases Memory.mem_writeRun hc with ⟨h₁, h₂, -⟩ | hc
  · exact ha _ h₁ h₂
  · exact hm c hc

/-- A command that succeeds lists only bytes of memories: a commit stays in the planes of its frame, a probe in PROBE_PRED
(20_memory.md R52, R53). -/
theorem Executed.memoryMapped {i : Instr} {l : Latch} {s t : State} (hx : Executed i l s t) (hg : s.geometryOk)
    (hm : s.memoryMapped) : t.memoryMapped := by
  cases hx with
  | nop => exact hm
  | frame => exact hm
  | predict _ _ hc =>
    intro c h
    rcases mem_commitMem (evaluate_bounded _ _ _) (inFrame_of_ready hg hc) h with h | h
    · exact hm c h
    · rw [isMemory_iff]; omega
  | probe _ _ _ r hb =>
    obtain ⟨hlow, hhigh, -⟩ := hb
    refine mapped_writeRun hm fun x h₁ h₂ => ?_
    rw [isMemory_iff]
    simp only [probeBase] at hlow hhigh
    omega

/-- The engine's turn lists only bytes of memories; an error entry stores none. -/
theorem engineTurn_memoryMapped {s t : State} (hg : s.geometryOk) (hm : s.memoryMapped) (h : engineTurn s = .next t) :
    t.memoryMapped := by
  rcases engineTurn_ends h with ⟨-, rfl⟩ | ⟨_, _, -, rfl⟩ | ⟨_, _, u, -, -, hx, rfl⟩
  · exact hm
  · exact hm
  · exact hx.memoryMapped hg hm

/-- A write of a register stores no byte of memory. -/
@[simp] theorem writeReg_mem (r : Reg) (v : Word) (s : State) : (s.writeReg r v).mem = s.mem := by cases r <;> rfl

/-- What a host write does to the memories: nothing, or the store of its bytes at an allowed offset outside the registers. -/
theorem busWrite_mem (n : Width) (off : Nat) (v : Word) (s : State) :
    (s.busWrite n off v).mem = s.mem ∨
      (accessOk true n off = true ∧ regAt off = none ∧
        (s.busWrite n off v).mem = s.mem.writeRun off (leBytes n.bytes v.toNat)) := by
  rcases busWrite_cases n off v s with ⟨-, h⟩ | ⟨-, -, h⟩ | ⟨ha, -, ⟨r, -, h⟩ | ⟨hr, h⟩⟩
  · rw [h]; exact .inl rfl
  · rw [h]; exact .inl rfl
  · rw [h]; exact .inl (writeReg_mem r v s)
  · rw [h]; exact .inr ⟨ha, hr, rfl⟩

/-- A host write lists only bytes of memories. -/
theorem memoryMapped_busWrite {s : State} (n : Width) (off : Nat) (v : Word) (hm : s.memoryMapped) :
    (s.busWrite n off v).memoryMapped := by
  unfold State.memoryMapped
  rcases busWrite_mem n off v s with h | ⟨ha, hr, h⟩
  · rw [h]; exact hm
  · rw [h]
    exact mapped_writeRun hm fun x h₁ h₂ => isMemory_of_write ha hr h₁ (by rwa [length_leBytes] at h₂)

/-- Settles O56: a host write stores where the access table allows one, a command within its frame and the buffers, and a reset
event lists bytes of memories alone. -/
theorem stepWritesOnlyMappedMemory : Obligations.StepWritesOnlyMappedMemory := by
  intro s t hg hm h
  rcases step_cases h with ⟨_, _, _, rfl⟩ | ⟨n, off, v, rest, -, rfl⟩ | ⟨-, ht⟩ | ⟨cs, _, -, rfl⟩
  · exact hm
  · exact memoryMapped_busWrite (s := { s with script := rest }) n off.toNat v hm
  · exact engineTurn_memoryMapped (s := { s with script := s.script.tail }) hg hm ht
  · exact mapped_memoryOf cs

/-! ### The canonical form -/

/-- A command that succeeds keeps the memories canonical, since all its stores do. -/
theorem Executed.memoryCanonical {i : Instr} {l : Latch} {s t : State} (hx : Executed i l s t) (h : s.memoryCanonical) :
    t.memoryCanonical := by
  cases hx with
  | nop => exact h
  | frame => exact h
  | predict => exact wf_commitMem h
  | probe => exact Memory.wf_writeRun h

/-- The engine's turn keeps the memories canonical; an error entry does not reach them. -/
theorem engineTurn_memoryCanonical {s t : State} (hs : s.memoryCanonical) (h : engineTurn s = .next t) : t.memoryCanonical := by
  rcases engineTurn_ends h with ⟨-, rfl⟩ | ⟨_, _, -, rfl⟩ | ⟨_, _, u, -, -, hx, rfl⟩
  · exact hs
  · exact hs
  · exact hx.memoryCanonical hs

/-- A host write keeps the memories canonical. -/
theorem memoryCanonical_busWrite {s : State} (n : Width) (off : Nat) (v : Word) (h : s.memoryCanonical) :
    (s.busWrite n off v).memoryCanonical := by
  unfold State.memoryCanonical
  rcases busWrite_mem n off v s with hw | ⟨-, -, hw⟩
  · rw [hw]; exact h
  · rw [hw]; exact Memory.wf_writeRun h

/-- Settles O55: the memories change only by stores, which keep the canonical form, and a reset event makes them by stores from
nothing. -/
theorem stepKeepsMemoryCanonical : Obligations.StepKeepsMemoryCanonical := by
  intro s t hs h
  exact step_induction h hs (fun _ _ h => h) (fun _ _ _ h => h) (fun _ _ h ht => engineTurn_memoryCanonical h ht)
    (fun _ n off v h => memoryCanonical_busWrite n off v h) (fun _ cs _ => wf_memoryOf cs)

/-! ### The latch -/

/-- With no command in flight there is no latch to agree with. -/
theorem latchOk_of_idle {s : State} (h : s.inflight = none) : s.latchOk := fun l hl => by rw [h] at hl; cases hl

/-- An issue latches what the registers hold, and `LASTOP` is the opcode of the word (45_commands.md R114). -/
theorem latchOk_issue (w : Word) (s : State) : (s.issue w).latchOk := by
  intro l hl
  obtain rfl : s.latchNow w = l := Option.some.inj hl
  refine ⟨rfl, rfl, BitVec.eq_of_toNat_eq ?_⟩
  simp [fieldOp, bitField, State.latchNow]

/-- A write of a register of an idle engine leaves an idle engine, or issues. -/
theorem latchOk_writeReg {s : State} (r : Reg) (v : Word) (hn : s.inflight = none) : (s.writeReg r v).latchOk := by
  cases r
  case cmd => exact latchOk_issue v s
  all_goals exact latchOk_of_idle hn

/-- A host write keeps the latch invariant: while a command is in flight no register is written (20_memory.md R50, R59). -/
theorem latchOk_busWrite {s : State} (n : Width) (off : Nat) (v : Word) (h : s.latchOk) : (s.busWrite n off v).latchOk := by
  rcases busWrite_cases n off v s with ⟨-, hw⟩ | ⟨-, -, hw⟩ | ⟨-, hn, ⟨r, -, hw⟩ | ⟨-, hw⟩⟩
  · rw [hw]; exact h
  · rw [hw]; exact h
  · rw [hw]; exact latchOk_writeReg r v hn
  · rw [hw]; exact h

/-- Settles O59: no access reaches the latch of a command in flight, and the engine's turn and a reset event leave none. -/
theorem stepKeepsLatch : Obligations.StepKeepsLatch := by
  intro s t h
  refine ⟨fun l hl => ?_, fun hs => ?_⟩
  · rcases step_cases h with ⟨_, _, _, rfl⟩ | ⟨n, off, v, rest, -, rfl⟩ | ⟨-, ht⟩ | ⟨_, _, -, rfl⟩
    · exact .inl hl
    · exact .inl (busWrite_inflight (s := { s with script := rest }) hl n off.toNat v)
    · exact .inr (engineTurn_completes ht).1
    · exact .inr rfl
  · exact step_induction h hs (fun _ _ h => h) (fun _ _ _ h => h) (fun _ _ _ ht => latchOk_of_idle (engineTurn_completes ht).1)
      (fun _ n off v h => latchOk_busWrite n off v h) (fun _ _ _ => latchOk_of_idle rfl)

/-! ### Bus errors and reads -/

/-- A write that gets a bus error, busy or idle (20_memory.md R48). -/
theorem step_write_error {s : State} {n : Width} {off : BitVec 23} {v : Word} {rest : List Event}
    (hs : s.script = .write n off v :: rest) (ha : accessOk true n off.toNat = false) :
    step s = .next { s with script := rest, bus := some .writeError } := by
  simp only [step, hs, State.event, State.busWrite, if_pos ha]
  rfl

/-- A read that gets a bus error draws a free value (20_memory.md R48). -/
theorem step_read_error {s : State} {n : Width} {off : BitVec 23} {rest : List Event} (hs : s.script = .read n off :: rest)
    (ha : accessOk false n off.toNat = false) :
    step s = .next { s with script := rest, bus := some (.readError (s.freeRead n)), draws := s.draws + 1 } := by
  simp only [step, hs, State.event, State.busRead, if_pos ha]
  rfl

/-- Settles O12: the access table is asked before `BUSY`. -/
theorem busErrorHasNoEffect : Obligations.BusErrorHasNoEffect :=
  fun _ _ _ _ => ⟨fun _ ha hs => step_write_error hs ha, fun ha hs => ⟨_, _, step_read_error hs ha⟩⟩

/-- Settles O13: a read, answered or in error, gives an answer and at most draws a free value. -/
theorem readsChangeNothing : Obligations.ReadsChangeNothing := by
  intro s n off rest hs
  obtain ⟨r, d, h⟩ := busRead_eq n off.toNat { s with script := rest }
  refine ⟨r, d, ?_⟩
  simp only [step, hs, State.event, h]

/-! ### The sample windows -/

/-- The bytes a store takes from a value are its bits, eight at a time (20_memory.md R46). -/
theorem getD_leBytes_toNat {len k : Nat} (v : Word) (hk : k < len) :
    (leBytes len v.toNat).getD k 0#8 = v.extractLsb' (8 * k) 8 := by
  apply BitVec.eq_of_toNat_eq
  rw [getD_leBytes hk, BitVec.extractLsb'_toNat, BitVec.toNat_ofNat, Nat.shiftRight_eq_div_pow, pow_mul]
  rfl

/-- Settles O19: no register lies at or above 0x001000, and a store to canonical memory is read back. -/
theorem windowWriteStoresItsBytes : Obligations.WindowWriteStoresItsBytes := by
  intro s n off v rest hw hn ha hoff hs
  have hstep := step_write hs ha hn
  rw [regAt_none hoff] at hstep
  refine ⟨_, hstep, rfl, fun k hk => ?_, fun a h => ?_⟩
  · exact (Memory.readByte_writeRun_self hw (by rwa [length_leBytes])).trans (getD_leBytes_toNat v hk)
  · exact Memory.readByte_writeRun_other (by rwa [length_leBytes])

/-- A read outside the registers and the mode store returns bytes of its window (20_memory.md R46). -/
theorem readValue_window {off : Nat} (s : State) (n : Width) (h₁ : 0x001000 ≤ off) (h₂ : off < 0x100000 ∨ 0x200000 ≤ off) :
    s.readValue n off = s.windowValue n off := by
  unfold State.readValue
  rcases regionOf_cases off with ⟨a, h⟩ | ⟨-, -, h⟩ | ⟨-, -, h⟩ | ⟨-, -, h⟩ | ⟨-, -, h⟩ | ⟨a, b, h⟩ | ⟨-, h⟩ | ⟨-, h⟩
  case inl => omega
  case inr.inr.inr.inr.inr.inl => omega
  all_goals rw [h]

/-- Settles O20: a window's read value is its bytes. -/
theorem windowReadIsLittleEndian : Obligations.WindowReadIsLittleEndian := by
  intro s n off rest hn ha h₁ h₂ hs
  refine ⟨s.windowValue n off.toNat, ?_, windowValue_spec s n off.toNat⟩
  rw [step_read hs ha (.inl hn), readValue_window s n h₁ h₂]

/-! ### The mode store -/

/-- The records of the mode store lie in its region (20_memory.md R52). -/
theorem regionOf_modeStore {off : Nat} (h₁ : 0x100000 ≤ off) (h₂ : off ≤ 0x11FDFF) : regionOf off = some .modeStore := by
  rcases regionOf_cases off with ⟨a, -⟩ | ⟨-, a, -⟩ | ⟨-, a, -⟩ | ⟨-, a, -⟩ | ⟨-, a, -⟩ | ⟨-, -, h⟩ | ⟨a, -⟩ | ⟨a, -⟩
  case inr.inr.inr.inr.inr.inl => exact h
  all_goals omega

/-- A word of a mode record reads 0 unless its record is committed in the current frame (20_memory.md R54). -/
theorem readValue_modeStore (s : State) (n : Width) {r w : Nat} (hr : r < 8160) (hw : w < 4) :
    s.readValue n (0x100000 + 16 * r + 4 * w) =
      if s.status.frameValid = true ∧ r < s.nextMb.toNat then s.windowValue n (0x100000 + 16 * r + 4 * w) else 0#32 := by
  have hreg : regionOf (0x100000 + 16 * r + 4 * w) = some .modeStore := regionOf_modeStore (by omega) (by omega)
  have hrec : (0x100000 + 16 * r + 4 * w - modeBase) / 16 = r := by simp only [modeBase]; omega
  simp only [State.readValue, hreg, State.recordVisible, hrec, Bool.and_eq_true, decide_eq_true_eq]

/-- Settles O21: a read of the store is the gated word, and the access table lets no write through. -/
theorem modeStoreReadsAreGated : Obligations.ModeStoreReadsAreGated := by
  intro s rest
  refine ⟨fun r w hn hr hw hs => ?_, fun n off v h₁ h₂ hs => step_write_error hs ?_⟩
  · have hoff : (BitVec.ofNat 23 (0x100000 + 16 * r + 4 * w)).toNat = 0x100000 + 16 * r + 4 * w := by
      rw [BitVec.toNat_ofNat]; omega
    have ha : accessOk false .w32 (0x100000 + 16 * r + 4 * w) = true := by
      rw [accessTableOfTheMap]
      simp only [Width.bytes, true_and]
      omega
    refine ⟨_, step_read hs (by rwa [hoff]) (.inl hn), ?_, ?_⟩
    all_goals rw [hoff, readValue_modeStore s .w32 hr hw]
    · rintro (hv | hle)
      · exact if_neg fun h => Bool.false_ne_true (hv.symm.trans h.1)
      · exact if_neg fun h => hle.not_gt h.2
    · intro hv hlt
      rw [if_pos ⟨hv, hlt⟩]
      exact (windowValue_spec s .w32 _).1
  · rw [Bool.eq_false_iff]
    intro ha
    obtain ⟨-, h⟩ := (accessTableOfTheMap true n off.toNat).1 ha
    simp only [Bool.true_eq_false, false_and, false_or] at h
    omega

end Sys2Proof.Machine
end

section
/-! PROOFS. The command word (30_encoding.md R61 to R64): what each stage of the decoder accepts, that decoding and encoding agree,
which words are commands, and how a word that is none ends. -/

namespace Sys2Proof.Machine

/-! ### The rows of the probe table -/

/-- The rows of R63: the values of `KIND`, `MODE` and `BLK` of each probe. -/
inductive ProbeRow : Nat → Nat → Nat → Instr → Prop
  | i4 (m : I4Mode) (blk : Nat) : ProbeRow 0 m.num blk (m.probe blk)
  | i16 (m : I16Mode) : ProbeRow 1 m.num 0 m.probe
  | c (m : CMode) : ProbeRow 2 m.num 0 m.probe

namespace ProbeRow

variable {kind mode blk : Nat} {i : Instr}

theorem kind_lt (h : ProbeRow kind mode blk i) : kind < 3 := by cases h <;> decide

theorem mode_le (h : ProbeRow kind mode blk i) : mode ≤ 8 := by
  cases h with
  | i4 m => exact m.num_le
  | i16 m => exact m.num_le.trans (by decide)
  | c m => exact m.num_le.trans (by decide)

theorem encode_eq (h : ProbeRow kind mode blk i) : encode i = probeWord kind mode blk := by
  cases h with
  | i4 m => cases m <;> rfl
  | i16 m => cases m <;> rfl
  | c m => cases m <;> rfl

theorem wellFormed_iff (h : ProbeRow kind mode blk i) : WellFormed i = true ↔ blk < 16 := by
  cases h with
  | i4 m =>
    have hw : WellFormed (m.probe blk) = blkInRange blk := by cases m <;> rfl
    rw [hw, blkInRange, decide_eq_true_iff]
  | i16 m => cases m <;> decide
  | c m => cases m <;> decide

/-- Every number of the table names a mode (R60, R63). -/
theorem exists_iff :
    (∃ i, ProbeRow kind mode blk i) ↔ (kind = 0 ∧ mode ≤ 8) ∨ ((kind = 1 ∨ kind = 2) ∧ mode ≤ 3 ∧ blk = 0) := by
  constructor
  · rintro ⟨i, h⟩
    cases h with
    | i4 m => exact .inl ⟨rfl, m.num_le⟩
    | i16 m => exact .inr ⟨.inl rfl, m.num_le, rfl⟩
    | c m => exact .inr ⟨.inr rfl, m.num_le, rfl⟩
  · rintro (⟨rfl, hm⟩ | ⟨rfl | rfl, hm, rfl⟩) <;> interval_cases mode
    exacts [⟨_, i4 .v _⟩, ⟨_, i4 .h _⟩, ⟨_, i4 .dc _⟩, ⟨_, i4 .ddl _⟩, ⟨_, i4 .ddr _⟩, ⟨_, i4 .vr _⟩, ⟨_, i4 .hd _⟩,
      ⟨_, i4 .vl _⟩, ⟨_, i4 .hu _⟩, ⟨_, i16 .v⟩, ⟨_, i16 .h⟩, ⟨_, i16 .dc⟩, ⟨_, i16 .plane⟩, ⟨_, c .dc⟩, ⟨_, c .h⟩,
      ⟨_, c .v⟩, ⟨_, c .plane⟩]

end ProbeRow

/-! ### What each stage of the decoder accepts -/

theorem decodePlain_ok {w : Word} {i j : Instr} : decodePlain w j = .ok i ↔ bitField w 4 28 = 0 ∧ i = j := by
  unfold decodePlain
  split
  · next h => simp [h, eq_comm]
  · next h => simp [h]

theorem decodeProbeI4_ok {mode blk : Nat} {i : Instr} : decodeProbeI4 mode blk = .ok i ↔ ProbeRow 0 mode blk i := by
  constructor
  · intro h
    unfold decodeProbeI4 at h
    split at h <;> cases h
    exacts [.i4 .v _, .i4 .h _, .i4 .dc _, .i4 .ddl _, .i4 .ddr _, .i4 .vr _, .i4 .hd _, .i4 .vl _, .i4 .hu _]
  · intro h
    cases h with
    | i4 m => cases m <;> rfl

theorem decodeProbeI16_ok {mode blk : Nat} {i : Instr} : decodeProbeI16 mode blk = .ok i ↔ ProbeRow 1 mode blk i := by
  constructor
  · intro h
    unfold decodeProbeI16 at h
    split at h
    · cases h
    · next hb =>
      obtain rfl : blk = 0 := not_not.1 hb
      split at h <;> cases h
      exacts [.i16 .v, .i16 .h, .i16 .dc, .i16 .plane]
  · intro h
    cases h with
    | i16 m => cases m <;> rfl

theorem decodeProbeC_ok {mode blk : Nat} {i : Instr} : decodeProbeC mode blk = .ok i ↔ ProbeRow 2 mode blk i := by
  constructor
  · intro h
    unfold decodeProbeC at h
    split at h
    · cases h
    · next hb =>
      obtain rfl : blk = 0 := not_not.1 hb
      split at h <;> cases h
      exacts [.c .dc, .c .h, .c .v, .c .plane]
  · intro h
    cases h with
    | c m => cases m <;> rfl

/-- The `PROBE` words are those with clear reserved fields whose other fields are a row of the table (R63). -/
theorem decodeProbe_ok {w : Word} {i : Instr} :
    decodeProbe w = .ok i ↔
      fieldRsv0 w = 0 ∧ fieldRsv1 w = 0 ∧ ProbeRow (fieldKind w) (fieldMode w) (fieldBlk w) i := by
  unfold decodeProbe
  split
  · next h => simp only [reduceCtorEq, false_iff]; omega
  · next h =>
    obtain ⟨h0, h1⟩ : fieldRsv0 w = 0 ∧ fieldRsv1 w = 0 := by omega
    simp only [h0, h1, true_and]
    split
    · next hk => rw [hk, decodeProbeI4_ok]
    · next hk => rw [hk, decodeProbeI16_ok]
    · next hk => rw [hk, decodeProbeC_ok]
    · next hk₀ hk₁ hk₂ =>
      simp only [reduceCtorEq, false_iff]
      intro hr
      obtain hk | hk | hk : fieldKind w = 0 ∨ fieldKind w = 1 ∨ fieldKind w = 2 := by have := hr.kind_lt; omega
      exacts [hk₀ hk, hk₁ hk, hk₂ hk]

/-- A word below 16 is its opcode alone. -/
theorem word_eq_ofNat_iff {w : Word} {n : Nat} (hn : n < 16) :
    w = BitVec.ofNat 32 n ↔ fieldOp w = n ∧ bitField w 4 28 = 0 := by
  have := word_eq_op w
  have : fieldOp w < 16 := Nat.mod_lt _ (by decide)
  rw [← BitVec.toNat_inj, BitVec.toNat_ofNat]
  omega

/-- The words of the two tables, by their opcode (R62, R63). -/
theorem decode_ok {w : Word} {i : Instr} :
    decode w = .ok i ↔ (w = 0#32 ∧ i = .nop) ∨ (w = 1#32 ∧ i = .frameInit) ∨ (w = 2#32 ∧ i = .predictMb) ∨
      (fieldOp w = 3 ∧ decodeProbe w = .ok i) := by
  rw [word_eq_ofNat_iff (by decide), word_eq_ofNat_iff (by decide), word_eq_ofNat_iff (by decide)]
  unfold decode
  split
  · next ho => simp [ho, decodePlain_ok]
  · next ho => simp [ho, decodePlain_ok]
  · next ho => simp [ho, decodePlain_ok]
  · next ho => simp [ho]
  · next h₀ h₁ h₂ h₃ =>
    simp only [reduceCtorEq, false_iff]
    rintro (⟨⟨h, -⟩, -⟩ | ⟨⟨h, -⟩, -⟩ | ⟨⟨h, -⟩, -⟩ | ⟨h, -⟩)
    exacts [h₀ h, h₁ h, h₂ h, h₃ h]

/-! ### Decoding and encoding agree -/

/-- The `PROBE` word of a row decodes to its probe. -/
theorem ProbeRow.decode_encode {kind mode blk : Nat} {i : Instr} (h : ProbeRow kind mode blk i) (hw : WellFormed i = true) :
    decode (encode i) = .ok i := by
  obtain ⟨ho, h0, h1, hk, hm, hb⟩ :=
    probeWord_fields (h.kind_lt.trans (by decide)) (h.mode_le.trans_lt (by decide)) (h.wellFormed_iff.1 hw)
  rw [h.encode_eq, decode_ok, decodeProbe_ok, hk, hm, hb]
  exact .inr (.inr (.inr ⟨ho, h0, h1, h⟩))

/-- Settles O1: each row of the tables puts its own numbers in the fields from which the decoder reads it back. -/
theorem decodeOfEncode : Obligations.DecodeOfEncode := by
  intro i hw
  obtain rfl | rfl | rfl | ⟨m, k, rfl⟩ | ⟨m, rfl⟩ | ⟨m, rfl⟩ := Instr.cases_kind i
  · rfl
  · rfl
  · rfl
  · exact (ProbeRow.i4 m k).decode_encode hw
  · exact (ProbeRow.i16 m).decode_encode hw
  · exact (ProbeRow.c m).decode_encode hw

/-- Settles O2: the decoder leaves no bit of a word unread, so the fields of a command fix its word. -/
theorem encodeOfDecode : Obligations.EncodeOfDecode := by
  intro w i h
  obtain ⟨rfl, rfl⟩ | ⟨rfl, rfl⟩ | ⟨rfl, rfl⟩ | ⟨ho, hp⟩ := decode_ok.1 h
  · exact ⟨rfl, rfl⟩
  · exact ⟨rfl, rfl⟩
  · exact ⟨rfl, rfl⟩
  · obtain ⟨h0, h1, hr⟩ := decodeProbe_ok.1 hp
    exact ⟨hr.wellFormed_iff.2 (fieldBlk_lt w), hr.encode_eq.trans (probeWord_of_fields ho h0 h1 rfl)⟩

/-! ### The words that are commands -/

/-- A field is a given bit vector when its number is. -/
theorem extractLsb'_eq_iff {w : Word} {lo len : Nat} {x : BitVec len} :
    w.extractLsb' lo len = x ↔ bitField w lo len = x.toNat := by
  rw [← BitVec.toNat_inj, extractLsb'_toNat_bitField]

/-- Settles O3: the decoder accepts the numbers of the rows of the tables and no others. -/
theorem legalWordsAreTheTables : Obligations.LegalWordsAreTheTables := by
  intro w
  simp only [decode_ok, decodeProbe_ok, exists_or, exists_and_left, exists_eq, and_true, ProbeRow.exists_iff,
    extractLsb'_eq_iff, extractLsb'_toNat_bitField]
  rfl

/-- Settles O4: the seven words are the encodings of their commands. -/
theorem writtenWordsDecode : Obligations.WrittenWordsDecode :=
  ⟨decodeOfEncode .nop rfl, decodeOfEncode .frameInit rfl, decodeOfEncode .predictMb rfl, decodeOfEncode (.probeI4Ddr 6) rfl,
    decodeOfEncode (.probeI4Hu 0) rfl, decodeOfEncode .probeI16Plane rfl, decodeOfEncode .probeCDc rfl⟩

/-! ### A word that is no command -/

/-- The engine's turn rejects a word in flight that is no command (R64; 45_commands.md R116). -/
theorem engineTurn_illegal {s : State} {l : Latch} {e : DecodeError} (hl : s.inflight = some l)
    (hd : decode l.word = .error e) : engineTurn s = .next (s.raiseCmdError .cmd) := by
  simp only [engineTurn, hl, hd, State.rejectWord]

/-- Settles O7: the turn is the error entry with the code of `ERR_CMD`. -/
theorem illegalWordEndsInErrCmd : Obligations.IllegalWordEndsInErrCmd := by
  intro s l e rest hl hd hs
  rw [step_engine (.inr ⟨rest, hs⟩), hs]
  exact engineTurn_illegal hl hd

end Sys2Proof.Machine
end

section
/-! PROOFS. Neighbours and borders (40_neighbours.md R69 to R79): where a macroblock's neighbours stand, the order of the 4x4
blocks, the luma samples prediction sees, every sample of the three Predictors, and what macroblock 0 chooses. -/

namespace Sys2Proof.Machine

/-! ### The neighbours of a macroblock -/

/-- The macroblock above one that is not in the first row. -/
theorem mb_above {c n : Nat} (hc : 0 < c) (h : 0 < n / c) : n - c < n ∧ (n - c) % c = n % c ∧ (n - c) / c + 1 = n / c := by
  have hn : c ≤ n := (Nat.div_pos_iff.1 h).2
  exact ⟨by omega, (Nat.mod_eq_sub_mod hn).symm, (Nat.div_eq_sub_div hc hn).symm⟩

/-- The macroblock to the right of one that is not in the last column. -/
theorem mb_right {c n : Nat} (h : n % c + 1 < c) : (n + 1) % c = n % c + 1 ∧ (n + 1) / c = n / c := by
  have hn : n + 1 = c * (n / c) + (n % c + 1) := by rw [← Nat.add_assoc, Nat.div_add_mod]
  rw [hn]
  exact mb_of_col_row h

/-- The macroblock to the left of one that is not in the first column. -/
theorem mb_left {c n : Nat} (hc : 0 < c) (h : 0 < n % c) : n - 1 < n ∧ (n - 1) % c + 1 = n % c ∧ (n - 1) / c = n / c := by
  have hn : n - 1 = c * (n / c) + (n % c - 1) := by rw [← Nat.add_sub_assoc h, Nat.div_add_mod]
  have hr : n % c - 1 < c := by have := Nat.mod_lt n hc; omega
  obtain ⟨hcol, hrow⟩ := mb_of_col_row (q := n / c) hr
  rw [← hn] at hcol hrow
  have := Nat.mod_le n c
  exact ⟨by omega, by omega, hrow⟩

/-- Settles O46: a diagonal neighbour is the left or the right one of the macroblock above. -/
theorem availableNeighboursAreEarlier : Obligations.AvailableNeighboursAreEarlier := by
  intro c n hc
  simp only [mbAvail_up, mbAvail_left, mbAvail_right, mbAvail_upleft, mbAvail_upright, true_and]
  refine ⟨mb_above hc, mb_left hc, ?_, ?_, mb_right⟩
  · rintro ⟨hu, hl⟩
    obtain ⟨hlt, hcol, hrow⟩ := mb_above hc hu
    rw [← hcol] at hl ⊢
    obtain ⟨hlt', hcol', hrow'⟩ := mb_left hc hl
    exact ⟨by omega, hcol', by rw [hrow', hrow]⟩
  · rintro ⟨hu, hr⟩
    obtain ⟨hlt, hcol, hrow⟩ := mb_above hc hu
    have hn : c ≤ n := (Nat.div_pos_iff.1 hu).2
    rw [← hcol] at hr ⊢
    obtain ⟨hcol', hrow'⟩ := mb_right hr
    exact ⟨by omega, hcol', by rw [hrow', hrow]⟩

/-! ### The 4x4 blocks -/

/-- Settles O47: the tables of the sixteen blocks by their definitions, the inverse by `blkIdx_blk`. -/
theorem blockOrderAndUprightTable : Obligations.BlockOrderAndUprightTable :=
  ⟨rfl, fun k _ => blkIdx_blk k, fun _ => rfl⟩

/-- The corner of a block is that of its macroblock, or of the macroblock next to it on the one side the block touches (R74). -/
theorem blkAvail_upleft (av : MbAvail) (k : Nat) : (blkAvail av k).upleft = true ↔
    0 < blkX k ∧ 0 < blkY k ∨ blkX k = 0 ∧ 0 < blkY k ∧ av.left = true ∨ 0 < blkX k ∧ blkY k = 0 ∧ av.up = true ∨
      blkX k = 0 ∧ blkY k = 0 ∧ av.upleft = true := by
  rcases Nat.eq_zero_or_pos (blkX k) with hx | hx <;> rcases Nat.eq_zero_or_pos (blkY k) with hy | hy <;>
    simp [blkAvail, hx, hy, Nat.ne_of_gt]

/-! ### The luma samples of the macroblock being predicted -/

/-- Inside the macroblock a luma sample is that of `INTRA_Y` at the position in the macroblock (R75). -/
theorem lumaAt_inside {s : State} {n x y : Nat} {intra : List (List Byte)} (hx : x < 16) (hy : y < 16) :
    s.lumaAt n intra (s.lumaX n + x) (s.lumaY n + y) = intraAt intra x y := by
  rw [State.lumaAt, if_pos (by omega), Nat.add_sub_cancel_left, Nat.add_sub_cancel_left]

/-- The decoded samples of block `j`, once visited, are those of its choice in the 4x4 pass (R76, R91). -/
theorem getD_intraBlocks_i4Chain {s : State} {b : Bool} {n j k : Nat} (hj : j < k) (hk : k ≤ 16) :
    (intraBlocks b s.srcY (s.i4Chain b n k)).getD j [] =
      if b then ((s.i4Pass b n).map Candidate.pred).getD j [] else subBlock s.srcY j := by
  simp only [List.getD_eq_getElem?_getD, intraBlocks, List.getElem?_mapIdx, List.getElem?_map, State.i4Pass,
    i4Chain_getElem? s b n hj, i4Chain_getElem? s b n (hj.trans_le hk), Option.map_some, Option.getD_some, decodedBlock]

/-- A source sample of a block is the `SRC_Y` byte at the position in the macroblock (R73; 10_state.md R37). -/
theorem blockAt_subBlock_srcY {s : State} {x y : Nat} (hx : x < 16) (hy : y < 16) :
    blockAt 4 (subBlock s.srcY (blkIdx (x / 4) (y / 4))) (x % 4) (y % 4) = s.mem.readByte (0x001000 + 16 * y + x) := by
  have hX : x / 4 < 4 := by omega
  rw [blockAt, getD_subBlock (by omega), blkX_blkIdx hX, blkY_blkIdx hX, State.srcY, Memory.getD_readRun _ (by omega)]
  congr 1
  simp only [srcYBase]
  omega

/-- Settles O41: inside, the visited block's entry of `INTRA_Y`; outside, the DNT by definition of the plane's address. -/
theorem lumaSamplesOfVisitedBlocks : Obligations.LumaSamplesOfVisitedBlocks := by
  intro s n
  refine ⟨fun b k x y hk hx hy hv => ?_, fun intra X Y h => lumaAt_outside h⟩
  refine (lumaAt_inside hx hy).trans ?_
  rw [intraAt, getD_intraBlocks_i4Chain hv hk]
  cases b with
  | true => rfl
  | false => exact congrArg sampleOf (blockAt_subBlock_srcY hx hy)

/-! ### The samples of the Predictors -/

/-- The samples above a 4x4 block (R77). -/
theorem predictor4_top {s : State} {n k i : Nat} {intra : List (List Byte)} (hi : i < 4) :
    (s.predictor4 n intra k).top i =
      if (blkAvail (mbAvail s.mbCols.toNat n) k).up then
        s.lumaAt n intra (s.lumaX n + 4 * blkX k + i) (s.lumaY n + 4 * blkY k - 1)
      else 128 := by
  rw [Predictor.top_natCast]
  interval_cases i <;> rfl

/-- The samples above and to the right of a 4x4 block; without them its last up sample, or the default, stands there (R77). -/
theorem predictor4_top_right {s : State} {n k i : Nat} {intra : List (List Byte)} (h4 : 4 ≤ i) (hi : i < 8) :
    (s.predictor4 n intra k).top i =
      if (blkAvail (mbAvail s.mbCols.toNat n) k).upright then
        s.lumaAt n intra (s.lumaX n + 4 * blkX k + i) (s.lumaY n + 4 * blkY k - 1)
      else if (blkAvail (mbAvail s.mbCols.toNat n) k).up then (s.predictor4 n intra k).top 3 else 128 := by
  have h3 : (s.predictor4 n intra k).top 3 =
      if (blkAvail (mbAvail s.mbCols.toNat n) k).up then (s.predictor4 n intra k).top 3 else 128 := by
    split
    · rfl
    · next hu => exact (predictor4_top (i := 3) (by decide)).trans (if_neg hu)
  rw [← h3, Predictor.top_natCast]
  interval_cases i <;> rfl

/-- The samples to the left of a 4x4 block (R77). -/
theorem predictor4_side {s : State} {n k i : Nat} {intra : List (List Byte)} (hi : i < 4) :
    (s.predictor4 n intra k).side i =
      if (blkAvail (mbAvail s.mbCols.toNat n) k).left then
        s.lumaAt n intra (s.lumaX n + 4 * blkX k - 1) (s.lumaY n + 4 * blkY k + i)
      else 128 := by
  rw [Predictor.side_natCast]
  exact getD_border _ hi

/-- The samples above a macroblock (R78). -/
theorem predictor16_top {s : State} {n i : Nat} (hi : i < 16) :
    (s.predictor16 n).top i =
      if (mbAvail s.mbCols.toNat n).up then s.dntY (s.lumaX n + i) (s.lumaY n - 1) else 128 := by
  rw [Predictor.top_natCast]
  exact getD_border _ hi

/-- The samples to the left of a macroblock (R78). -/
theorem predictor16_side {s : State} {n i : Nat} (hi : i < 16) :
    (s.predictor16 n).side i =
      if (mbAvail s.mbCols.toNat n).left then s.dntY (s.lumaX n - 1) (s.lumaY n + i) else 128 := by
  rw [Predictor.side_natCast]
  exact getD_border _ hi

/-- The samples above a macroblock in a chroma plane (R79). -/
theorem predictorC_top {s : State} {base n i : Nat} (hi : i < 8) :
    (s.predictorC base n).top i =
      if (mbAvail s.mbCols.toNat n).up then s.dntC base (s.chromaX n + i) (s.chromaY n - 1) else 128 := by
  rw [Predictor.top_natCast]
  exact getD_border _ hi

/-- The samples to the left of a macroblock in a chroma plane (R79). -/
theorem predictorC_side {s : State} {base n i : Nat} (hi : i < 8) :
    (s.predictorC base n).side i =
      if (mbAvail s.mbCols.toNat n).left then s.dntC base (s.chromaX n - 1) (s.chromaY n + i) else 128 := by
  rw [Predictor.side_natCast]
  exact getD_border _ hi

/-- Settles O48: the borders of each Predictor sample by sample; corners and availabilities are its fields. -/
theorem bordersAreNeighbourSamplesOrDefault : Obligations.BordersAreNeighbourSamplesOrDefault := by
  intro s n
  refine ⟨fun intra k i => ?_, fun i hi => ?_, fun base i _ hi => ?_⟩
  · exact ⟨rfl, blkAvail_up _ k, blkAvail_left _ k, blkAvail_upleft _ k, predictor4_top, predictor4_top_right, predictor4_side,
      rfl⟩
  · exact ⟨rfl, predictor16_top hi, predictor16_side hi, rfl⟩
  · exact ⟨rfl, predictorC_top hi, predictorC_side hi, rfl⟩

/-! ### Macroblock 0 -/

/-- The first macroblock has no neighbour that prediction reads (R70, 90_conflicts.md C4). -/
theorem mbAvail_zero (c : Nat) :
    mbAvail c 0 = { up := false, left := false, upright := false, upleft := false, right := decide (1 < c) } := by
  simp [mbAvail]

/-- Without an up and a left border DC alone is legal, in each of the three families (41_luma4x4.md R80, 42_luma16x16.md R92,
43_chroma8x8.md R98). -/
theorem I4Mode.eq_dc_of_legal {m : I4Mode} {av : Avail} (hu : av.up = false) (hl : av.left = false) (h : m.legal av = true) :
    m = .dc := by
  cases m <;> simp_all [I4Mode.legal]

theorem I16Mode.eq_dc_of_legal {m : I16Mode} {av : Avail} (hu : av.up = false) (hl : av.left = false)
    (h : m.legal av = true) : m = .dc := by
  cases m <;> simp_all [I16Mode.legal]

theorem CMode.eq_dc_of_legal {m : CMode} {av : Avail} (hu : av.up = false) (hl : av.left = false) (h : m.legal av = true) :
    m = .dc := by
  cases m <;> simp_all [CMode.legal]

/-- So each search chooses DC there (41_luma4x4.md R90, 42_luma16x16.md R97, 43_chroma8x8.md R103). -/
theorem selectI4_mode_of_no_border {p : Predictor} (src : List Byte) (hu : p.av.up = false) (hl : p.av.left = false) :
    (selectI4 p src).mode = 2 := by
  have h := selectI4_mem p src
  simp only [i4Candidates, List.mem_map, List.mem_filter] at h
  obtain ⟨m, ⟨-, hm⟩, h⟩ := h
  rw [← h, I4Mode.eq_dc_of_legal hu hl hm]
  rfl

theorem selectI16_mode_of_no_border {p : Predictor} (src : List Byte) (hu : p.av.up = false) (hl : p.av.left = false) :
    (selectI16 p src).mode = 2 := by
  have h := selectI16_mem p src
  simp only [i16Candidates, List.mem_map, List.mem_filter] at h
  obtain ⟨m, ⟨-, hm⟩, h⟩ := h
  rw [← h, I16Mode.eq_dc_of_legal hu hl hm]
  rfl

theorem selectC_mode_of_no_border {pb pr : Predictor} (srcCb srcCr : List Byte) (hu : pb.av.up = false)
    (hl : pb.av.left = false) : (selectC pb pr srcCb srcCr).mode = 0 := by
  have h := selectC_mem pb pr srcCb srcCr
  simp only [cCandidates, List.mem_map, List.mem_filter] at h
  obtain ⟨m, ⟨-, hm⟩, h⟩ := h
  rw [← h, CMode.eq_dc_of_legal hu hl hm]
  rfl

/-- Settles O49: no border of macroblock 0, nor of its block 0, is available, so DC is the only candidate. -/
theorem firstMacroblockWholeAndBlockZeroChooseDc : Obligations.FirstMacroblockWholeAndBlockZeroChooseDc := by
  intro s b
  have hav : (mbAvail s.mbCols.toNat 0).toAvail = { up := false, left := false, upright := false, upleft := false } := by
    rw [mbAvail_zero]
  have hu : (mbAvail s.mbCols.toNat 0).up = false := congrArg Avail.up hav
  have hl : (mbAvail s.mbCols.toNat 0).left = false := congrArg Avail.left hav
  refine ⟨selectI16_mode_of_no_border _ hu hl, selectC_mode_of_no_border _ _ hu hl, ?_, hav, mbAvail_zero⟩
  rw [List.head?_eq_getElem?, List.getElem?_map, State.i4Pass, i4Chain_getElem? s b 0 (by decide), Option.map_some,
    selectI4_mode_of_no_border _ hu hl]

end Sys2Proof.Machine
end

section
/-! PROOFS. The 4x4 luma modes (41_luma4x4.md R81 to R91): the values each mode takes, the modes that mirror each other, and the
order of the 4x4 pass. -/

namespace Sys2Proof.Machine

/-! ### The values of the modes -/

section
variable {p : Predictor}

/-- The average of four up and four left samples (R83). -/
theorem avg8_range (ht : ∀ i, 0 ≤ p.top i ∧ p.top i ≤ 255) (hs : ∀ j, 0 ≤ p.side j ∧ p.side j ≤ 255) :
    0 ≤ shr (p.top 0 + p.top 1 + p.top 2 + p.top 3 + (p.side 0 + p.side 1 + p.side 2 + p.side 3) + 4) 3 ∧
      shr (p.top 0 + p.top 1 + p.top 2 + p.top 3 + (p.side 0 + p.side 1 + p.side 2 + p.side 3) + 4) 3 ≤ 255 := by
  have := ht 0; have := ht 1; have := ht 2; have := ht 3
  have := hs 0; have := hs 1; have := hs 2; have := hs 3
  simp only [shr]; omega

/-- DC averages the sides that are there, and is the default without any (R83). -/
theorem i4Dc_range (ht : ∀ i, 0 ≤ p.top i ∧ p.top i ≤ 255) (hs : ∀ j, 0 ≤ p.side j ∧ p.side j ≤ 255) (x y : Int) :
    0 ≤ i4Dc p x y ∧ i4Dc p x y ≤ 255 := by
  unfold i4Dc
  dsimp only
  split_ifs
  · exact avg8_range ht hs
  · exact avg4_range (hs 0) (hs 1) (hs 2) (hs 3)
  · exact avg4_range (ht 0) (ht 1) (ht 2) (ht 3)
  · decide

theorem i4Ddl_range (ht : ∀ i, 0 ≤ p.top i ∧ p.top i ≤ 255) (x y : Int) : 0 ≤ i4Ddl p x y ∧ i4Ddl p x y ≤ 255 := by
  unfold i4Ddl
  split
  · exact avg13_range (ht _) (ht _)
  · exact avg121_range (ht _) (ht _) (ht _)

theorem i4Ddr_range (hc : 0 ≤ p.corner ∧ p.corner ≤ 255) (ht : ∀ i, 0 ≤ p.top i ∧ p.top i ≤ 255)
    (hs : ∀ j, 0 ≤ p.side j ∧ p.side j ≤ 255) (x y : Int) : 0 ≤ i4Ddr p x y ∧ i4Ddr p x y ≤ 255 := by
  unfold i4Ddr
  split_ifs
  · exact avg121_range (ht _) (ht _) (ht _)
  · exact avg121_range (hs _) (hs _) (hs _)
  · exact avg121_range (ht _) hc (hs _)

theorem i4Vr_range (hc : 0 ≤ p.corner ∧ p.corner ≤ 255) (ht : ∀ i, 0 ≤ p.top i ∧ p.top i ≤ 255)
    (hs : ∀ j, 0 ≤ p.side j ∧ p.side j ≤ 255) (x y : Int) : 0 ≤ i4Vr p x y ∧ i4Vr p x y ≤ 255 := by
  unfold i4Vr
  dsimp only
  split_ifs
  · exact avg2_range (ht _) (ht _)
  · exact avg121_range (ht _) (ht _) (ht _)
  · exact avg121_range (hs _) hc (ht _)
  · exact avg121_range (hs _) (hs _) (hs _)

theorem i4Vl_range (ht : ∀ i, 0 ≤ p.top i ∧ p.top i ≤ 255) (x y : Int) : 0 ≤ i4Vl p x y ∧ i4Vl p x y ≤ 255 := by
  unfold i4Vl
  split
  · exact avg2_range (ht _) (ht _)
  · exact avg121_range (ht _) (ht _) (ht _)

theorem i4Hu_range (hs : ∀ j, 0 ≤ p.side j ∧ p.side j ≤ 255) (x y : Int) : 0 ≤ i4Hu p x y ∧ i4Hu p x y ≤ 255 := by
  unfold i4Hu
  dsimp only
  split_ifs
  · exact avg2_range (hs _) (hs _)
  · exact avg121_range (hs _) (hs _) (hs _)
  · exact avg13_range (hs _) (hs _)
  · exact hs _

end

/-! ### Mirror images -/

/-- The weights at the corner do not tell up from left (R85 to R87). -/
theorem corner_sum_comm (p : Predictor) : p.side 0 + 2 * p.corner + p.top 0 = p.top 0 + 2 * p.corner + p.side 0 := by omega

/-- Horizontal_Down reads on the left what Vertical_Right reads above; only the sum at the corner is written in the same order in
both (R86, R87). -/
theorem i4Hd_eq_i4Vr_transpose (p : Predictor) (x y : Int) : i4Hd p x y = i4Vr p.transpose y x := by
  simp only [i4Hd, i4Vr, Predictor.transpose_top, Predictor.transpose_side, Predictor.transpose_corner, corner_sum_comm]

/-- Diagonal_Down_Right exchanges its two triangles and keeps its diagonal (R85). -/
theorem i4Ddr_transpose (p : Predictor) (x y : Int) : i4Ddr p.transpose y x = i4Ddr p x y := by
  simp only [i4Ddr, Predictor.transpose_top, Predictor.transpose_side, Predictor.transpose_corner]
  rcases lt_trichotomy x y with h | rfl | h
  · rw [if_pos h, if_neg (by omega), if_pos h]
  · rw [if_neg (lt_irrefl x), if_neg (lt_irrefl x), if_neg (lt_irrefl x), if_neg (lt_irrefl x), corner_sum_comm]
  · rw [if_neg (by omega), if_pos h, if_pos h]

/-- Settles O45: the three mirrors hold at every position, in the block or not. -/
theorem diagonalModesMirror : Obligations.DiagonalModesMirror := by
  intro p x y _ _
  exact ⟨i4Hd_eq_i4Vr_transpose p x y, (i4Ddr_transpose p x y).symm, rfl⟩

/-! ### No clipping -/

/-- Horizontal_Down needs no argument of its own: it is Vertical_Right on the exchanged borders. -/
theorem i4Hd_range {p : Predictor} (hc : 0 ≤ p.corner ∧ p.corner ≤ 255) (ht : ∀ i, 0 ≤ p.top i ∧ p.top i ≤ 255)
    (hs : ∀ j, 0 ≤ p.side j ∧ p.side j ≤ 255) (x y : Int) : 0 ≤ i4Hd p x y ∧ i4Hd p x y ≤ 255 := by
  rw [i4Hd_eq_i4Vr_transpose]
  exact i4Vr_range (p := p.transpose) hc hs ht y x

/-- Settles O43: every sample a mode reads is in 0..255, and each mode is a sample or an average of samples. -/
theorem i4ValuesNeedNoClipping : Obligations.I4ValuesNeedNoClipping := by
  intro m p x y hc hu hl
  have ht := Predictor.top_range hc hu
  have hs := Predictor.side_range hc hl
  cases m with
  | v => exact ht x
  | h => exact hs y
  | dc => exact i4Dc_range ht hs x y
  | ddl => exact i4Ddl_range ht x y
  | ddr => exact i4Ddr_range hc ht hs x y
  | vr => exact i4Vr_range hc ht hs x y
  | hd => exact i4Hd_range hc ht hs x y
  | vl => exact i4Vl_range ht x y
  | hu => exact i4Hu_range hs x y

/-! ### The 4x4 pass -/

/-- Settles O40: the first `k` choices of the pass are the chain block `k` was selected on. -/
theorem i4PassSelectsEachBlock : Obligations.I4PassSelectsEachBlock := by
  intro s b n k hk
  have htake : (s.i4Pass b n).take k = s.i4Chain b n k := i4Chain_take s b n hk.le
  refine ⟨length_i4Chain s b n 16, ?_⟩
  rw [htake]
  exact i4Chain_getElem? s b n hk

end Sys2Proof.Machine
end

section
/-! PROOFS. Cost, choice and commit (44_selection.md R104 to R111): the SAD as a distance, the first cheapest legal mode of each
search, and every byte of the memories after a `PREDICT_MB` that passes its checks. -/

namespace Sys2Proof.Machine

/-! ### SAD -/

/-- The order of the blocks does not matter (R104). -/
theorem sad_comm (a b : List Byte) : sad a b = sad b a := by
  have hswap : ∀ p q : Byte, (sampleOf p - sampleOf q).natAbs = (sampleOf q - sampleOf p).natAbs := fun p q => by omega
  rw [sad, List.zipWith_comm, sad]
  simp only [hswap]

/-- Two samples at distance 0 are the same byte. -/
theorem sampleOf_diff_eq_zero {p q : Byte} : (sampleOf p - sampleOf q).natAbs = 0 ↔ p = q := by
  rw [Int.natAbs_eq_zero, sub_eq_zero, sampleOf, sampleOf, Nat.cast_inj, BitVec.toNat_inj]

/-- Only equal blocks are at distance 0 (R104). -/
theorem sad_eq_zero {a b : List Byte} (h : a.length = b.length) : sad a b = 0 ↔ a = b := by
  induction a generalizing b with
  | nil => simp [List.eq_nil_of_length_eq_zero h.symm, sad]
  | cons p a ih =>
    cases b with
    | nil => simp at h
    | cons q b =>
      rw [sad_cons, Nat.add_eq_zero_iff, sampleOf_diff_eq_zero, ih (Nat.succ.inj h), List.cons.injEq]

/-- Settles O42: each part sample by sample, the bound as `sad_le` gives it. -/
theorem sadIsADistance : Obligations.SadIsADistance := fun a b h => ⟨sad_comm a b, sad_eq_zero h, sad_le a b⟩

/-! ### The mode searches -/

/-- The search of R105 over the legal modes of a family, listed in ascending number: what it chooses comes from a legal mode, no
legal mode is cheaper, and every legal mode of lower number is dearer. -/
theorem argminFirst_filter_map {μ α : Type} {all : List μ} {legal : μ → Bool} {num : μ → Nat} (cand : μ → α)
    (cost : α → Nat) (d : α) (hall : ∀ m, m ∈ all) (hasc : all.Pairwise fun m m' => num m < num m')
    (hlegal : ∃ m, legal m = true) :
    ∃ m, legal m = true ∧ (argminFirst cost ((all.filter legal).map cand)).getD d = cand m ∧
      ∀ m', legal m' = true → cost (cand m) ≤ cost (cand m') ∧ (num m' < num m → cost (cand m) < cost (cand m')) := by
  have hmem : ∀ m, m ∈ all.filter legal ↔ legal m = true := fun m => by simp [hall]
  obtain ⟨m₀, h₀⟩ := hlegal
  obtain ⟨c, hc⟩ := argminFirst_isSome (cost := cost)
    (List.ne_nil_of_mem (List.mem_map_of_mem (f := cand) ((hmem m₀).2 h₀)))
  obtain ⟨before, after, hsplit, hbefore, hafter⟩ := argminFirst_spec hc
  obtain ⟨ms, rest, hms, rfl, hrest⟩ := List.map_eq_append_iff.1 hsplit
  obtain ⟨m, ms', rfl, rfl, rfl⟩ := List.map_eq_cons_iff.1 hrest
  have hsorted := hasc.filter legal
  rw [hms] at hsorted
  simp only [hms, List.mem_append, List.mem_cons] at hmem
  refine ⟨m, (hmem m).1 (by simp), by rw [hc]; rfl, fun m' hm' => ?_⟩
  rcases (hmem m').2 hm' with hm' | rfl | hm'
  · have hlt := hbefore _ (List.mem_map_of_mem hm')
    exact ⟨hlt.le, fun _ => hlt⟩
  · exact ⟨le_rfl, fun h => absurd h (lt_irrefl _)⟩
  · have hnum : num m < num m' := (List.pairwise_cons.1 (List.pairwise_append.1 hsorted).2.1).1 m' hm'
    exact ⟨hafter _ (List.mem_map_of_mem hm'), fun h => absurd h hnum.not_gt⟩

/-- Settles O39: DC is legal in each family, and each family lists all its modes in ascending number. -/
theorem selectionsPickFirstCheapestLegal : Obligations.SelectionsPickFirstCheapestLegal := by
  refine ⟨fun p src => ?_, fun p src => ?_, fun pb pr srcCb srcCr => ?_⟩
  · exact argminFirst_filter_map (legal := fun m => m.legal p.av)
      (fun m => Candidate.mk m.num (sad (m.block p) src) (m.block p)) Candidate.cost _ (fun m => by cases m <;> decide)
      (by decide : I4Mode.all.Pairwise fun m m' => m.num < m'.num) ⟨.dc, rfl⟩
  · exact argminFirst_filter_map (legal := fun m => m.legal p.av)
      (fun m => Candidate.mk m.num (sad (m.block p) src) (m.block p)) Candidate.cost _ (fun m => by cases m <;> decide)
      (by decide : I16Mode.all.Pairwise fun m m' => m.num < m'.num) ⟨.dc, rfl⟩
  · exact argminFirst_filter_map (legal := fun m => m.legal pb.av)
      (fun m => m.candidate pb pr srcCb srcCr) CCandidate.cost _ (fun m => by cases m <;> decide)
      (by decide : CMode.all.Pairwise fun m m' => m.num < m'.num) ⟨.dc, rfl⟩

/-! ### A completed `PREDICT_MB` -/

/-- What a `PREDICT_MB` that passes its checks leaves: the commit of its evaluation, completed (45_commands.md R119). -/
theorem eq_commit_of_exec {s t : State} {l : Latch} (h : s.readyFor l) (ht : exec .predictMb s = .next t) :
    t = (s.commit l.bsrc l.idx.toNat (s.evaluate l.bsrc l.idx.toNat)).succeed :=
  (Host.Outcome.next.inj ((exec_predictMb h).symm.trans ht)).symm

/-- The `IS_I16` flag of `RESULT` (10_state.md R29). -/
theorem resultWord_isI16 {e : Evaluation} (he : e.Bounded) :
    (resultWord e.isI16 e.pcm e.i16.mode e.c.mode).getLsbD 1 = e.isI16 := by
  have := toNat_resultWord he
  have := Bool.toNat_le e.isI16
  exact getLsbD_of_div (by omega)

/-- The `PCM` flag of `RESULT` (10_state.md R29). -/
theorem resultWord_pcm {e : Evaluation} (he : e.Bounded) :
    (resultWord e.isI16 e.pcm e.i16.mode e.c.mode).getLsbD 2 = e.pcm := by
  have := toNat_resultWord he
  have := Bool.toNat_le e.isI16
  have := Bool.toNat_le e.pcm
  exact getLsbD_of_div (by omega)

/-! ### PRED -/

/-- Where 16x16 is not beaten its prediction is the luma prediction (R106). -/
theorem Evaluation.predY_of_i16 {e : Evaluation} (h : ¬costOf4 e.i4 < e.i16.cost) : e.predY = e.i16.pred :=
  if_pos (e.isI16_iff.2 h)

/-- Where 4x4 is strictly cheaper the luma prediction is assembled from its sixteen choices (R106). -/
theorem Evaluation.predY_of_i4 {e : Evaluation} (h : costOf4 e.i4 < e.i16.cost) : e.predY = assemble4 e.i4 :=
  if_neg fun hi => e.isI16_iff.1 hi h

/-- A sample of the assembled prediction is the sample of its block's choice (41_luma4x4.md R91). -/
theorem getD_assemble4 {cs : List Candidate} {c : Candidate} {k x y : Nat} (hc : cs[k]? = some c) (hk : k < 16) (hx : x < 4)
    (hy : y < 4) : (assemble4 cs).getD (16 * (4 * blkY k + y) + (4 * blkX k + x)) 0#8 = c.pred.getD (4 * y + x) 0#8 := by
  have hX := blkX_lt k
  have hY := blkY_lt hk
  generalize hi : 16 * (4 * blkY k + y) + (4 * blkX k + x) = i
  have hcol : i % 16 / 4 = blkX k ∧ i % 16 % 4 = x := by omega
  have hrow : i / 16 / 4 = blkY k ∧ i / 16 % 4 = y := by omega
  rw [assemble4, List.getD_eq_getElem?_getD, List.getElem?_map, List.getElem?_range (by omega), Option.map_some,
    Option.getD_some, hcol.1, hcol.2, hrow.1, hrow.2, blkIdx_blk, List.getD_eq_getElem?_getD, List.getElem?_map, hc]
  rfl

section
variable {s : State} {b : Bool} {n i : Nat} {e : Evaluation}

/-- The luma samples of PRED (R108). -/
theorem readByte_commitMem_predY (he : e.Bounded) (hm : s.mem.wf) (hi : i < 256) :
    (s.commitMem b n e).readByte (0x003000 + i) = e.predY.getD i 0#8 := by
  rw [readByte_commitMem_pred he hm (by omega), Evaluation.predBytes, List.append_assoc,
    List.getD_append _ _ _ _ (by rwa [he.length_predY])]

/-- The Cb samples of PRED (R108). -/
theorem readByte_commitMem_predCb (he : e.Bounded) (hm : s.mem.wf) (hi : i < 64) :
    (s.commitMem b n e).readByte (0x003100 + i) = e.c.predCb.getD i 0#8 := by
  have h := readByte_commitMem_pred (b := b) (n := n) he hm (i := 256 + i) (by omega)
  rw [← Nat.add_assoc] at h
  rw [h, Evaluation.predBytes, List.append_assoc, List.getD_append_right _ _ _ _ (by rw [he.length_predY]; omega),
    he.length_predY, Nat.add_sub_cancel_left, List.getD_append _ _ _ _ (by rwa [he.predCb])]

/-- The Cr samples of PRED (R108). -/
theorem readByte_commitMem_predCr (he : e.Bounded) (hm : s.mem.wf) (hi : i < 64) :
    (s.commitMem b n e).readByte (0x003140 + i) = e.c.predCr.getD i 0#8 := by
  have h := readByte_commitMem_pred (b := b) (n := n) he hm (i := 320 + i) (by omega)
  have hl : (e.predY ++ e.c.predCb).length = 320 := by rw [List.length_append, he.length_predY, he.predCb]
  rw [← Nat.add_assoc] at h
  rw [h, Evaluation.predBytes, List.getD_append_right _ _ _ _ (by omega), hl, Nat.add_sub_cancel_left]

end

/-! ### Bytes put together -/

/-- A number's low bits under the bits above them. -/
theorem ofNat_append_ofNat (v k m : Nat) : BitVec.ofNat k (v / 2 ^ m) ++ BitVec.ofNat m v = BitVec.ofNat (k + m) v := by
  apply BitVec.eq_of_getLsbD_eq
  intro i hi
  rw [BitVec.getLsbD_append, BitVec.getLsbD_ofNat, BitVec.getLsbD_ofNat, BitVec.getLsbD_ofNat, Nat.testBit_div_two_pow]
  by_cases h : i < m
  · simp [h, hi]
  · have hk : i - m < k := by omega
    simp [h, hi, hk, Nat.sub_add_cancel (Nat.le_of_not_lt h)]

/-- The four bytes of a word, put together (20_memory.md R46). -/
theorem wordOfBytes_ofNat (v : Nat) :
    wordOfBytes (BitVec.ofNat 8 v) (BitVec.ofNat 8 (v / 256)) (BitVec.ofNat 8 (v / 256 ^ 2)) (BitVec.ofNat 8 (v / 256 ^ 3)) =
      BitVec.ofNat 32 v := by
  have h₃ : BitVec.ofNat 8 (v / 256 ^ 3) ++ BitVec.ofNat 8 (v / 256 ^ 2) = BitVec.ofNat (8 + 8) (v / 256 ^ 2) := by
    rw [← ofNat_append_ofNat, Nat.div_div_eq_div_mul]; rfl
  have h₂ : BitVec.ofNat 16 (v / 256 ^ 2) ++ BitVec.ofNat 8 (v / 256) = BitVec.ofNat (16 + 8) (v / 256) := by
    rw [← ofNat_append_ofNat, Nat.div_div_eq_div_mul]; rfl
  have h₁ : BitVec.ofNat 24 (v / 256) ++ BitVec.ofNat 8 v = BitVec.ofNat (24 + 8) v := ofNat_append_ofNat v 24 8
  rw [wordOfBytes, h₃, h₂, h₁]

/-! ### WORK -/

/-- Two runs of reads, one after the other. -/
theorem Memory.readRun_append (m : Memory) (a k l : Nat) : m.readRun a k ++ m.readRun (a + k) l = m.readRun a (k + l) := by
  simp only [Memory.readRun, List.range_add, List.map_append, List.map_map, Function.comp_def, Nat.add_assoc]

/-- The samples of Y, Cb and Cr lie one after the other in SRC (20_memory.md R52). -/
theorem getD_srcBytes (s : State) {i : Nat} (hi : i < 384) : s.srcBytes.getD i 0#8 = s.mem.readByte (0x001000 + i) := by
  have hrun : s.srcBytes = s.mem.readRun srcYBase (256 + 64 + 64) := by
    rw [← Memory.readRun_append, ← Memory.readRun_append]
    rfl
  rw [hrun, Memory.getD_readRun _ hi]

/-- A value of WORK in 16 bits: the sample under PCM and the difference otherwise (R109). -/
theorem workValue_eq (pcm : Bool) (p q : Byte) :
    workValue pcm p q = if pcm then p.setWidth 16 else p.setWidth 16 - q.setWidth 16 := by
  have hofInt : ∀ r : Byte, BitVec.ofInt 16 (sampleOf r) = r.setWidth 16 := fun r =>
    (BitVec.ofInt_natCast 16 r.toNat).trans (BitVec.ofNat_toNat 16 r)
  rw [workValue, Int.sub_eq_add_neg, BitVec.ofInt_add, BitVec.ofInt_neg, ← BitVec.sub_eq_add_neg, hofInt, hofInt]

/-- The two bytes of a value of WORK, as it is stored (R109; 20_memory.md R46). -/
theorem readByte_commitMem_workValue {s : State} {b : Bool} {n i : Nat} {e : Evaluation} (he : e.Bounded) (hm : s.mem.wf)
    (hi : i < 384) :
    ((s.commitMem b n e).readByte (0x002000 + 2 * i + 1) ++ (s.commitMem b n e).readByte (0x002000 + 2 * i) : BitVec 16) =
      if e.pcm then (s.mem.readByte (0x001000 + i)).setWidth 16
      else (s.mem.readByte (0x001000 + i)).setWidth 16 -
        ((s.commitMem b n e).readByte (0x003000 + i)).setWidth 16 := by
  have hlo := readByte_commitMem_work (b := b) (n := n) he hm hi (j := 0) (by decide)
  rw [Nat.add_zero] at hlo
  rw [Nat.add_assoc, readByte_commitMem_work he hm hi (j := 1) (by decide), hlo,
    readByte_commitMem_pred he hm hi, ← getD_srcBytes s hi, ← workValue_eq, pow_zero, Nat.div_one]
  exact (ofNat_append_ofNat _ 8 8).trans ((BitVec.ofNat_toNat 16 _).trans (BitVec.setWidth_eq _))

/-- Settles O30: PRED and WORK byte by byte, the luma part by the family that won. -/
theorem predictMbWritesPredAndWork : Obligations.PredictMbWritesPredAndWork := by
  intro s t l _ hm hr ht e
  have he : e.Bounded := evaluate_bounded _ _ _
  rw [eq_commit_of_exec hr ht, State.succeed_mem, State.commit_mem, State.succeed_result, State.commit_result,
    resultWord_pcm he]
  refine ⟨fun h i hi => ?_, fun h k x y hk hx hy => ?_, fun i => readByte_commitMem_predCb he hm,
    fun i => readByte_commitMem_predCr he hm, fun i => readByte_commitMem_workValue he hm⟩
  · rw [readByte_commitMem_predY he hm hi, Evaluation.predY_of_i16 h]
  · have hlen : k < e.i4.length := by rwa [he.count]
    have hX := blkX_lt k
    have hY := blkY_lt hk
    refine ⟨e.i4[k], List.getElem?_eq_getElem hlen, ?_⟩
    rw [Nat.add_assoc, readByte_commitMem_predY he hm (by omega), Evaluation.predY_of_i4 h]
    exact getD_assemble4 (List.getElem?_eq_getElem hlen) hk hx hy

/-! ### The DNT -/

/-- A sample at its frame coordinates is the sample at its place in its macroblock (20_memory.md R53, 40_neighbours.md R69). -/
theorem planeAt_add (base stride X Y x y : Nat) :
    base + (Y + y) * stride + (X + x) = planeAt base stride X Y + y * stride + x := by
  rw [planeAt, Nat.add_mul]; omega

/-- A sample of a plane's source: the raw one under PCM or `BSRC = 0` (R110). -/
theorem getD_dntSource (pcm b : Bool) (src pred : List Byte) (i : Nat) :
    (dntSource pcm b src pred).getD i 0#8 = if pcm = true ∨ b = false then src.getD i 0#8 else pred.getD i 0#8 := by
  cases pcm <;> cases b <;> rfl

section
variable {s : State} {b : Bool} {n x y : Nat} {e : Evaluation}

/-- A luma sample of macroblock `n` in the DNT (R110). -/
theorem readByte_commitMem_dntY (hf : s.InFrame n) (he : e.Bounded) (hm : s.mem.wf) (hx : x < 16) (hy : y < 16) :
    (s.commitMem b n e).readByte (planeAt dntYBase s.strideY (s.lumaX n) (s.lumaY n) + y * s.strideY + x) =
      if e.pcm = true ∨ b = false then s.mem.readByte (0x001000 + 16 * y + x)
      else (s.commitMem b n e).readByte (0x003000 + 16 * y + x) := by
  have hi : 16 * y + x < 256 := by omega
  rw [readByte_commitMem_dnt hf.index (by simp only [planeAt, dntYBase]; omega),
    readByte_commitDnt_y hf he (Memory.wf_writeRun (Memory.wf_writeRun hm)) hx hy, getD_dntSource, State.srcY,
    Memory.getD_readRun _ hi, Nat.add_assoc, Nat.add_assoc, readByte_commitMem_predY he hm hi]

/-- A Cb sample of macroblock `n` in the DNT (R110). -/
theorem readByte_commitMem_dntCb (hf : s.InFrame n) (he : e.Bounded) (hm : s.mem.wf) (hx : x < 8) (hy : y < 8) :
    (s.commitMem b n e).readByte (planeAt dntCbBase s.strideC (s.chromaX n) (s.chromaY n) + y * s.strideC + x) =
      if e.pcm = true ∨ b = false then s.mem.readByte (0x001100 + 8 * y + x)
      else (s.commitMem b n e).readByte (0x003100 + 8 * y + x) := by
  have hi : 8 * y + x < 64 := by omega
  rw [readByte_commitMem_dnt hf.index (by simp only [planeAt, dntYBase, dntCbBase]; omega),
    readByte_commitDnt_cb hf he (Memory.wf_writeRun (Memory.wf_writeRun hm)) hx hy, getD_dntSource, State.srcCb,
    Memory.getD_readRun _ hi, Nat.add_assoc, Nat.add_assoc, readByte_commitMem_predCb he hm hi]

/-- A Cr sample of macroblock `n` in the DNT (R110). -/
theorem readByte_commitMem_dntCr (hf : s.InFrame n) (he : e.Bounded) (hm : s.mem.wf) (hx : x < 8) (hy : y < 8) :
    (s.commitMem b n e).readByte (planeAt dntCrBase s.strideC (s.chromaX n) (s.chromaY n) + y * s.strideC + x) =
      if e.pcm = true ∨ b = false then s.mem.readByte (0x001140 + 8 * y + x)
      else (s.commitMem b n e).readByte (0x003140 + 8 * y + x) := by
  have hi : 8 * y + x < 64 := by omega
  rw [readByte_commitMem_dnt hf.index (by simp only [planeAt, dntYBase, dntCrBase]; omega),
    readByte_commitDnt_cr hf he (Memory.wf_writeRun (Memory.wf_writeRun hm)) hx hy, getD_dntSource, State.srcCr,
    Memory.getD_readRun _ hi, Nat.add_assoc, Nat.add_assoc, readByte_commitMem_predCr he hm hi]

end

/-- Settles O31: each plane's samples are read back where they were stored, and are those of SRC or of PRED. -/
theorem predictMbWritesDnt : Obligations.PredictMbWritesDnt := by
  intro s t l hg hm hr ht
  obtain rfl := eq_commit_of_exec hr ht
  obtain ⟨-, -, hn, -⟩ := hr
  have he := evaluate_bounded s l.bsrc l.idx.toNat
  have hf := inFrame_of_ready hg hn
  simp only [State.succeed_mem, State.commit_mem, State.succeed_result, State.commit_result, resultWord_pcm he]
  refine ⟨fun x y hx hy => ?_, fun x y hx hy => ?_, fun x y hx hy => ?_⟩
  · rw [planeAt_add]; exact readByte_commitMem_dntY hf he hm hx hy
  · rw [planeAt_add]; exact readByte_commitMem_dntCb hf he hm hx hy
  · rw [planeAt_add]; exact readByte_commitMem_dntCr hf he hm hx hy

/-! ### The mode record -/

/-- A record's four words (R111). -/
def Evaluation.recordWords (e : Evaluation) : List Nat :=
  [recordWord0 e.isI16 e.pcm e.i16.mode e.c.mode, recordModes e.isI16 (e.i4Modes.take 8),
    recordModes e.isI16 (e.i4Modes.drop 8), 0]

theorem recordBytes_eq (e : Evaluation) : e.recordBytes = (e.recordWords.map (leBytes 4)).flatten := by
  simp [Evaluation.recordBytes, Evaluation.recordWords]

/-- Byte `k` of word `j` of a record (R111; 20_memory.md R46). -/
theorem getD_recordBytes {e : Evaluation} {j k v : Nat} (hv : e.recordWords[j]? = some v) (hk : k < 4) :
    e.recordBytes.getD (4 * j + k) 0#8 = BitVec.ofNat 8 (v / 256 ^ k) := by
  have hword : (e.recordWords.map (leBytes 4)).getD j [] = leBytes 4 v := by
    rw [List.getD_eq_getElem?_getD, List.getElem?_map, hv]; rfl
  rw [recordBytes_eq, getD_flatten_const (by simp) hk, hword, getD_leBytes hk]

/-- The word at `a`, word `j` of record `n`, after the commit (R111). -/
theorem wordOfBytes_commitMem_record {s : State} {b : Bool} {n j a v : Nat} {e : Evaluation} (hm : s.mem.wf)
    (hv : e.recordWords[j]? = some v) (ha : a = modeBase + 16 * n + 4 * j) :
    wordOfBytes ((s.commitMem b n e).readByte a) ((s.commitMem b n e).readByte (a + 1))
        ((s.commitMem b n e).readByte (a + 2)) ((s.commitMem b n e).readByte (a + 3)) = BitVec.ofNat 32 v := by
  have hj : j < 4 := (List.getElem?_eq_some_iff.1 hv).1
  have hbyte : ∀ k, k < 4 → (s.commitMem b n e).readByte (a + k) = BitVec.ofNat 8 (v / 256 ^ k) := by
    intro k hk
    rw [ha, Nat.add_assoc _ (4 * j), readByte_commitMem_record hm (by omega), getD_recordBytes hv hk]
  have h₀ := hbyte 0 (by decide)
  rw [Nat.add_zero, pow_zero, Nat.div_one] at h₀
  rw [h₀, hbyte 1 (by decide), hbyte 2 (by decide), hbyte 3 (by decide), pow_one, wordOfBytes_ofNat]

/-- Word 0 is `RESULT`, with 0xF for the 16x16 mode where 4x4 won (R111, R112). -/
theorem recordWord0_eq {e : Evaluation} (he : e.Bounded) :
    BitVec.ofNat 32 (recordWord0 e.isI16 e.pcm e.i16.mode e.c.mode) =
      if e.isI16 then resultWord e.isI16 e.pcm e.i16.mode e.c.mode
      else resultWord e.isI16 e.pcm e.i16.mode e.c.mode ||| 0x000000F0#32 := by
  have hlost : ∀ (pcm : Bool) (m c : Fin 4),
      BitVec.ofNat 32 (recordWord0 false pcm m c) = resultWord false pcm m c ||| 0x000000F0#32 := by decide
  cases e.isI16 with
  | true => rfl
  | false => exact hlost e.pcm ⟨e.i16.mode, Nat.lt_succ_of_le he.mode16⟩ ⟨e.c.mode, Nat.lt_succ_of_le he.modeC⟩

/-- A word of eight 4x4 modes, all ones where 16x16 won (R111). -/
theorem recordModes_eq {isI16 : Bool} {modes : List Nat} (h : modes.length = 8) :
    BitVec.ofNat 32 (recordModes isI16 modes) = if isI16 then 0xFFFFFFFF#32 else BitVec.ofNat 32 (nibbles modes) := by
  cases isI16 with
  | true =>
    have hones : recordModes true modes = nibbles (List.replicate modes.length noMode) := congrArg nibbles List.map_const'
    rw [hones, h]
    rfl
  | false => simp [recordModes]

/-- Settles O32: the four words of the record, put together from their bytes. -/
theorem predictMbWritesModeRecord : Obligations.PredictMbWritesModeRecord := by
  intro s t l _ hm hr ht
  obtain rfl := eq_commit_of_exec hr ht
  have he := evaluate_bounded s l.bsrc l.idx.toNat
  simp only [State.succeed_mem, State.commit_mem, State.succeed_result, State.commit_result, State.succeed_i4bestLo,
    State.commit_i4bestLo, State.succeed_i4bestHi, State.commit_i4bestHi, resultWord_isI16 he]
  generalize s.evaluate l.bsrc l.idx.toNat = e at he ⊢
  have hlen : e.i4Modes.length = 16 := by rw [Evaluation.i4Modes, List.length_map, he.count]
  have hlo : (e.i4Modes.take 8).length = 8 := by rw [List.length_take, hlen]; rfl
  have hhi : (e.i4Modes.drop 8).length = 8 := by rw [List.length_drop, hlen]
  refine ⟨?_, ?_, ?_, ?_⟩
  · exact (wordOfBytes_commitMem_record (j := 0) hm rfl rfl).trans (recordWord0_eq he)
  · exact (wordOfBytes_commitMem_record (j := 1) hm rfl rfl).trans (recordModes_eq hlo)
  · exact (wordOfBytes_commitMem_record (j := 2) hm rfl rfl).trans (recordModes_eq hhi)
  · exact wordOfBytes_commitMem_record (j := 3) hm rfl rfl

/-! ### Every other byte -/

/-- Settles O33: the bytes the statement leaves out are all the commit writes. -/
theorem predictMbWritesNothingElse : Obligations.PredictMbWritesNothingElse := by
  intro s t l a hr ht n C hpred hwork hrec hy hcb hcr
  rw [eq_commit_of_exec hr ht, State.succeed_mem, State.commit_mem]
  refine readByte_commitMem_other (evaluate_bounded _ _ _) hpred hwork hrec (fun x y hx hyl => ?_) (fun x y hx hyl => ?_)
    fun x y hx hyl => ?_
  · rw [← planeAt_add]; exact hy x y hx hyl
  · rw [← planeAt_add]; exact hcb x y hx hyl
  · rw [← planeAt_add]; exact hcr x y hx hyl

end Sys2Proof.Machine
end

section
/-! PROOFS. The commands (45_commands.md R114 to R123): their issue and completion, `NOP` and `FRAME_INIT`, the checks of
`PREDICT_MB` and the probes, what each of them reports, and that they agree. -/

namespace Sys2Proof.Machine

/-! ### Issue and completion -/

/-- The engine's turn executes a command in flight (R115, R116). -/
theorem engineTurn_legal {s : State} {l : Latch} {i : Instr} (hl : s.inflight = some l) (hd : decode l.word = .ok i) :
    engineTurn s = exec i s := by
  simp only [engineTurn, hl, hd]

/-- A 32-bit table word is the word itself. -/
theorem tableWord_toNat (w : Word) : tableWord 32 w.toNat = w := by
  rw [tableWord, Nat.mod_eq_of_lt w.isLt, BitVec.ofNat_toNat, BitVec.setWidth_eq]

/-- Settles O5: both forms of the engine's turn execute the decoded word, and a well-formed command decodes back from its word. -/
theorem stepRunsCommandInFlight : Obligations.StepRunsCommandInFlight := by
  refine ⟨fun s l i hl hd => ⟨fun rest hs => ?_, fun hs => ?_⟩, fun s i hw => ?_⟩
  · rw [step_engine (.inr ⟨rest, hs⟩), hs]
    exact engineTurn_legal hl hd
  · simp only [step, hs]
    exact engineTurn_legal hl hd
  · rw [State.withFetchWord, tableWord_toNat]
    exact (step_engine (.inr ⟨s.script, rfl⟩)).trans (engineTurn_legal rfl (decodeOfEncode i hw))

/-- Settles O6: what `exec` runs at an idle engine starts with the issue of the command's own word. -/
theorem execAtIdleIssuesFirst : Obligations.ExecAtIdleIssuesFirst := by
  intro s i hn
  rw [exec_eq, exec_eq, State.runCommand_issue hn]

/-- `LASTOP` is bits [3:0] of the word (R114). -/
theorem ofNat_fieldOp (w : Word) : BitVec.ofNat 4 (fieldOp w) = w.extractLsb' 0 4 := by
  rw [fieldOp, ← extractLsb'_toNat_bitField, BitVec.ofNat_toNat, BitVec.setWidth_eq]

/-- Settles O8: at an idle engine the write reaches `CMD`, which issues; at a busy one it is dropped like any other. -/
theorem cmdWriteIssues : Obligations.CmdWriteIssues := by
  refine fun s w rest hs => ⟨fun hn => ?_, fun l hl => ?_⟩
  · rw [step_write_reg hs hn .cmd rfl, ← ofNat_fieldOp]
    rfl
  · exact ⟨.writeOk, busyWriteIsAnOverrun s l .w32 0x008#23 w rest hl (accessOk_offset true .cmd) hs⟩

/-- Settles O9: the step is the engine's turn, which always leads on and completes what is in flight. -/
theorem engineTurnCompletes : Obligations.EngineTurnCompletes := by
  intro s hturn
  obtain ⟨t, ht⟩ := engineTurn_next { s with script := s.script.tail }
  obtain ⟨hidle, hscript, hflags⟩ := engineTurn_completes ht
  exact ⟨t, (step_engine hturn).trans ht, hidle, hscript, hflags⟩

/-! ### NOP -/

/-- Settles O24: the decoder and the encoder fix the word, and execution is the completion of the state, issued or not. -/
theorem nopCompletes : Obligations.NopCompletes := by
  refine ⟨fun w => ⟨fun h => (encodeOfDecode w .nop h).2.symm, ?_⟩, fun s l hl => exec_inflight hl .nop, fun s hn => ?_⟩
  · rintro rfl
    exact decodeOfEncode .nop rfl
  · rw [exec_eq, State.runCommand_idle hn]
    cases s
    cases hn
    rfl

/-! ### FRAME_INIT -/

/-- Settles O26: the two tests of the sizes, in their order. -/
theorem frameInitErrors : Obligations.FrameInitErrors := by
  intro s l hl bad large
  have hexec := exec_inflight hl .frameInit
  refine ⟨fun hbad => ?_, fun hgood hlarge => ?_⟩
  · rw [hexec, bodyOf, State.frameInit, if_pos hbad]
    rfl
  · rw [hexec, bodyOf, State.frameInit, if_neg hgood, if_pos hlarge]
    rfl

/-- `FRAME_INIT` with legal sizes begins the frame and succeeds (R118). -/
theorem exec_frameInit {s : State} {l : Latch} (hl : s.inflight = some l)
    (hd : ¬(s.frameW.toNat = 0 ∨ s.frameH.toNat = 0 ∨ s.frameW.toNat % 16 ≠ 0 ∨ s.frameH.toNat % 16 ≠ 0))
    (hr : ¬(Config.maxW < s.frameW.toNat ∨ Config.maxH < s.frameH.toNat)) :
    exec .frameInit s = .next s.startFrame.succeed := by
  rw [exec_inflight hl, bodyOf, State.frameInit, if_neg hd, if_neg hr, State.complete_ok]

/-- A frame with a macroblock whose cursor is at the first one is not done (10_state.md R23). -/
theorem statusWord_frameDone_eq_false {s : State} (hnext : s.nextMb = 0#16) (hcount : 0 < s.mbCount.toNat) :
    s.statusWord.getLsbD 9 = false := by
  obtain ⟨-, -, -, -, -, -, h9, -⟩ := statusWordFields s
  refine Bool.eq_false_iff.2 fun h => ?_
  rw [← (h9.1 h).2, hnext] at hcount
  exact absurd hcount (by decide)

/-- The `I4COST` registers after a reset, and so at the beginning of a frame (R118; 10_state.md R35). -/
theorem i4cost_reset (k : Fin 16) : State.reset.i4cost[k] = 0#32 := by
  revert k
  decide

/-- Settles O25: the sizes pass both tests, and the frame they begin has the geometry of `geometryOk_startFrame`. -/
theorem frameInitStartsFrame : Obligations.FrameInitStartsFrame := by
  intro s l c r hl hw hh hc hr hcmax hrmax
  have hd : ¬(s.frameW.toNat = 0 ∨ s.frameH.toNat = 0 ∨ s.frameW.toNat % 16 ≠ 0 ∨ s.frameH.toNat % 16 ≠ 0) := by omega
  have hlim : ¬(Config.maxW < s.frameW.toNat ∨ Config.maxH < s.frameH.toNat) := by
    simp only [Config.maxW, Config.maxH]; omega
  have hcols : s.startFrame.mbCols.toNat = c := by simp only [State.startFrame_mbCols, BitVec.toNat_ofNat]; omega
  have hrows : s.startFrame.mbRows.toNat = r := by simp only [State.startFrame_mbRows, BitVec.toNat_ofNat]; omega
  obtain ⟨hcount, -, -, -, hvalid⟩ := geometryOk_startFrame hd hlim
  rw [hcols, hrows] at hcount
  refine ⟨_, exec_frameInit hl hd hlim, hcols, hrows, hcount, i4cost_reset, ?_, rfl⟩
  exact statusWord_frameDone_eq_false rfl (hvalid.1 rfl)

/-! ### The checks -/

/-- A command that is checked for its macroblock ends with the error of the check (R116). -/
theorem bodyOf_of_checkMb_error {i : Instr} {l : Latch} {s : State} {e : CmdError} (hi : needsMb i = true)
    (h : s.checkMb l = .error e) : bodyOf i l s = .error e := by
  obtain rfl | rfl | rfl | ⟨m, k, rfl⟩ | ⟨m, rfl⟩ | ⟨m, rfl⟩ := Instr.cases_kind i
  · cases hi
  · cases hi
  · simp only [bodyOf, State.predictMb, h]
  · rw [bodyOf_probe4, State.probe, h]
  · rw [bodyOf_probe16, State.probe, h]
  · rw [bodyOf_probeC, State.probe, h]

/-- Settles O27: each clause is one outcome of the checks, and the error entry changes nothing else. -/
theorem macroblockChecks : Obligations.MacroblockChecks := by
  intro s l i hl hi
  have hexec {e : CmdError} (h : s.checkMb l = .error e) : exec i s = .next (s.raiseCmdError e) := by
    rw [exec_inflight hl, bodyOf_of_checkMb_error hi h, State.complete_error]
  refine ⟨fun hv => hexec (e := .noFrame) ?_, fun hv hc => hexec (e := .idx) ?_, fun hv hc hn => hexec (e := .order) ?_⟩
  · rw [State.checkMb, if_pos hv]
  · rw [State.checkMb, if_neg (by simp [hv]), if_pos hc]
  · rw [State.checkMb, if_neg (by simp [hv]), if_neg (by omega), if_pos hn]

/-! ### What PREDICT_MB reports -/

/-- `RESULT` of an evaluation, its flags by the costs (10_state.md R29, 44_selection.md R106, R107). -/
theorem resultWord_eq (e : Evaluation) :
    resultWord e.isI16 e.pcm e.i16.mode e.c.mode =
      BitVec.ofNat 32 (1 + (if costOf4 e.i4 < e.i16.cost then 0 else 2) +
        (if 2000 < e.costL ∨ 1000 < e.c.costCb + e.c.costCr then 4 else 0) + 16 * e.i16.mode + 256 * e.c.mode) := by
  have hi := toNat_mul_of_iff e.isI16_iff 2
  have hp := toNat_mul_of_iff e.pcm_iff 4
  rw [ite_not] at hi
  rw [resultWord, bitAt_eq, bitAt_eq, ← hi, ← hp]
  congr 1
  omega

/-- The nibbles of a word, one mode number each (10_state.md R30). -/
theorem nibbles_div {ms : List Nat} {k m : Nat} (h : ms[k]? = some m) : nibbles ms / 16 ^ k % 16 = m % 16 := by
  induction ms generalizing k with
  | nil => simp at h
  | cons m' ms ih =>
    cases k with
    | zero =>
      obtain rfl : m' = m := by simpa using h
      simp only [nibbles]; omega
    | succ k =>
      have htail : (m' % 16 + 16 * nibbles ms) / 16 = nibbles ms := by omega
      rw [nibbles, pow_succ', ← Nat.div_div_eq_div_mul, htail]
      exact ih (by simpa using h)

theorem nibbles_lt (ms : List Nat) : nibbles ms < 16 ^ ms.length := by
  induction ms with
  | nil => decide
  | cons m ms ih => simp only [nibbles, List.length_cons, pow_succ]; omega

/-- A field of a word of at most eight mode numbers (10_state.md R30). -/
theorem extractLsb'_nibbles {ms : List Nat} {k m : Nat} (hlen : ms.length ≤ 8) (h : ms[k]? = some m) (hm : m < 16) :
    ((BitVec.ofNat 32 (nibbles ms)).extractLsb' (4 * k) 4).toNat = m := by
  have hlt : nibbles ms < 2 ^ 32 := (nibbles_lt ms).trans_le (Nat.pow_le_pow_right (by decide) hlen)
  rw [extractLsb'_toNat_bitField, bitField, BitVec.toNat_ofNat, Nat.mod_eq_of_lt hlt, pow_mul]
  exact (nibbles_div h).trans (Nat.mod_eq_of_lt hm)

/-- The register `I4COST[k]` is the cost of block `k` (10_state.md R35). -/
theorem toNat_i4CostVector {cs : List Candidate} {c : Candidate} {k : Fin 16} (hl : cs.length = 16)
    (hc : ∀ c ∈ cs, c.cost ≤ 4080) (h : cs[k.val]? = some c) : (i4CostVector cs)[k].toNat = c.cost := by
  have hk : ((i4CostVector cs).toList.map BitVec.toNat)[k.val]? = (cs.map Candidate.cost)[k.val]? := by
    rw [map_toNat_i4CostVector hl hc]
  simpa [h] using hk

/-- The field of block `k` in `I4BEST_LO` or `I4BEST_HI` is its mode (10_state.md R30). -/
theorem i4best_field {e : Evaluation} (he : e.Bounded) {c : Candidate} {k : Nat} (h : e.i4[k]? = some c) :
    (if k < 8 then (BitVec.ofNat 32 (nibbles (e.i4Modes.take 8))).extractLsb' (4 * k) 4
      else (BitVec.ofNat 32 (nibbles (e.i4Modes.drop 8))).extractLsb' (4 * (k - 8)) 4).toNat = c.mode := by
  have hmode : c.mode < 16 := (he.mode4 c (List.mem_of_getElem? h)).trans_lt (by decide)
  have hk : e.i4Modes[k]? = some c.mode := by rw [Evaluation.i4Modes, List.getElem?_map, h]; rfl
  have hlen : e.i4Modes.length = 16 := by rw [Evaluation.i4Modes, List.length_map, he.count]
  split
  · next hlo => exact extractLsb'_nibbles (by simp) (by rw [List.getElem?_take_of_lt hlo, hk]) hmode
  · next hhi =>
    have hk' : (e.i4Modes.drop 8)[k - 8]? = some c.mode := by rw [List.getElem?_drop, ← hk]; congr 1; omega
    exact extractLsb'_nibbles (by rw [List.length_drop, hlen]) hk' hmode

/-- Settles O29: the commit's registers, with the flags and the luma cost written by the costs that decide them. -/
theorem predictMbReports : Obligations.PredictMbReports := by
  intro s l hr n e i4Wins costL costC
  have he : e.Bounded := evaluate_bounded _ _ _
  have ⟨_, _, _, hnext⟩ := hr
  refine ⟨(s.commit l.bsrc n e).succeed, exec_predictMb hr, ?_, fun k => ?_⟩
  · have hcursor : BitVec.ofNat 16 (n + 1) = s.nextMb + 1#16 := hnext ▸ nextMb_succ l.idx
    have hresult := resultWord_eq e
    rw [e.costL_eq] at hresult
    rw [State.commit, hcursor, hresult, e.costL_eq]
    rfl
  · obtain ⟨c, hk⟩ : ∃ c, e.i4[k.val]? = some c := ⟨_, List.getElem?_eq_getElem (k.isLt.trans_eq he.count.symm)⟩
    exact ⟨c, hk, toNat_i4CostVector he.count he.cost4 hk, i4best_field he hk⟩

/-! ### What a probe reports -/

/-- `PROBE_STAT` with its fields at their weights (10_state.md R33). -/
theorem probeStatWord_eq (legal : Bool) (kind mode blk : Nat) :
    probeStatWord legal kind mode blk =
      BitVec.ofNat 32 (1 + (if legal then 2 else 0) + 16 * kind + 256 * mode + 4096 * blk) := by
  rw [probeStatWord, bitAt, pow_one]
  congr 1
  omega

/-- A square block stored to canonical memory is read back sample by sample (20_memory.md R52, R53). -/
theorem readByte_writeRun_raster {n a i : Nat} {f : Int → Int → Int} {m : Memory} (hm : m.wf) (hi : i < n * n) :
    (Memory.writeRun a (raster n f) m).readByte (a + i) = BitVec.ofInt 8 (f (i % n : Nat) (i / n : Nat)) := by
  rw [Memory.readByte_writeRun_self hm (by rwa [length_raster]), getD_raster f hi, byteOf]

/-- Settles O34: the probe's record, its sixteen bytes read back and every other one left alone. -/
theorem probe4x4Completes : Obligations.Probe4x4Completes := by
  intro s l m k hm hr _ n p
  refine ⟨_, exec_probe4 hr m k, ?_, fun i hi => readByte_writeRun_raster hm hi, fun a ha => ?_⟩
  · rw [State.recordProbe, probeStatWord_eq]
    rfl
  · exact Memory.readByte_writeRun_other (bs := m.block p) (by rw [length_I4Mode_block]; exact ha)

/-- Settles O35: the probe's record, its 256 bytes read back and every other one left alone. -/
theorem probe16x16Completes : Obligations.Probe16x16Completes := by
  intro s l m hm hr n p
  refine ⟨_, exec_probe16 hr m, ?_, fun i hi => readByte_writeRun_raster hm hi, fun a ha => ?_⟩
  · rw [State.recordProbe, probeStatWord_eq]
    rfl
  · exact Memory.readByte_writeRun_other (bs := m.block p) (by rw [length_I16Mode_block]; exact ha)

/-- Two square blocks stored one after the other are read back (10_state.md R40). -/
theorem readByte_writeRun_rasters {n a i : Nat} {f g : Int → Int → Int} {m : Memory} (hm : m.wf) (hi : i < n * n) :
    (Memory.writeRun a (raster n f ++ raster n g) m).readByte (a + i) = BitVec.ofInt 8 (f (i % n : Nat) (i / n : Nat)) ∧
      (Memory.writeRun a (raster n f ++ raster n g) m).readByte (a + (n * n + i)) =
        BitVec.ofInt 8 (g (i % n : Nat) (i / n : Nat)) := by
  have hlen : (raster n f ++ raster n g).length = n * n + n * n := by simp
  constructor
  · rw [Memory.readByte_writeRun_self hm (by omega), List.getD_append _ _ _ _ (by simpa using hi), getD_raster f hi, byteOf]
  · rw [Memory.readByte_writeRun_self hm (by omega), List.getD_append_right _ _ _ _ (by simp), length_raster,
      Nat.add_sub_cancel_left, getD_raster g hi, byteOf]

/-- Settles O36: the probe's record, both planes' 64 bytes read back and every other one left alone. -/
theorem probeChromaCompletes : Obligations.ProbeChromaCompletes := by
  intro s l m hm hr n pb pr
  refine ⟨_, exec_probeC hr m, ?_, fun i hi => ?_, fun a ha => ?_⟩
  · rw [State.recordProbe, probeStatWord_eq]
    rfl
  · obtain ⟨hcb, hcr⟩ := readByte_writeRun_rasters (n := 8) (a := 0x005100) (f := m.value pb) (g := m.value pr) hm hi
    rw [← Nat.add_assoc] at hcr
    exact ⟨hcb, hcr⟩
  · refine Memory.readByte_writeRun_other ?_
    simp only [State.probeC, CMode.candidate, List.length_append, length_CMode_block, probeBase]
    exact ha

/-! ### Probes and PREDICT_MB agree -/

/-- The `LEGAL` flag of `PROBE_STAT` (10_state.md R33). -/
theorem probeStatWord_legal (legal : Bool) (kind mode blk : Nat) : (probeStatWord legal kind mode blk).getLsbD 1 = legal := by
  have := Bool.toNat_le legal
  refine getLsbD_of_div ?_
  rw [probeStatWord, bitAt_eq, BitVec.toNat_ofNat]
  omega

/-- A probe of mode number `mode` that reports `stat` and `sad` agrees with a search that reports the least cost `cost` and its
mode `field`: a legal mode is not cheaper, and the chosen one is legal and costs as much (R121 to R123). -/
def ProbeAgrees (stat sad cost : Word) (field mode : Nat) : Prop :=
  (stat.getLsbD 1 = true → cost.toNat ≤ sad.toNat) ∧ (field = mode → stat.getLsbD 1 = true ∧ sad = cost)

/-- Agreement, from how the probed mode's legality, number and cost compare to the search's choice. -/
theorem probeAgrees_of_search {legal : Bool} {mode chosenMode probeCost chosenCost : Nat}
    (hleast : legal = true → chosenCost ≤ probeCost) (hsame : chosenMode = mode → legal = true ∧ probeCost = chosenCost)
    {cost : Word} {field : Nat} (hcost : cost.toNat = chosenCost) (hfield : field = chosenMode) (hle : probeCost ≤ 65280)
    (kind blk : Nat) : ProbeAgrees (probeStatWord legal kind mode blk) (BitVec.ofNat 32 probeCost) cost field mode := by
  have hsad : (BitVec.ofNat 32 probeCost).toNat = probeCost := by rw [BitVec.toNat_ofNat]; omega
  rw [ProbeAgrees, probeStatWord_legal, hcost, hsad]
  refine ⟨hleast, fun h => ?_⟩
  obtain ⟨hlegal, heq⟩ := hsame (hfield.symm.trans h)
  exact ⟨hlegal, BitVec.eq_of_toNat_eq (by rw [hsad, hcost, heq])⟩

/-- A function that takes different values along a list of everything is injective. -/
theorem injective_of_nodup_map {μ α : Type} {f : μ → α} {all : List μ} (hall : ∀ m, m ∈ all) (h : (all.map f).Nodup) :
    f.Injective :=
  fun m m' => List.inj_on_of_nodup_map h (hall m) (hall m')

theorem I4Mode.num_injective : I4Mode.num.Injective :=
  injective_of_nodup_map (all := I4Mode.all) (fun m => by cases m <;> decide) (by decide)

theorem I16Mode.num_injective : I16Mode.num.Injective :=
  injective_of_nodup_map (all := I16Mode.all) (fun m => by cases m <;> decide) (by decide)

theorem CMode.num_injective : CMode.num.Injective :=
  injective_of_nodup_map (all := CMode.all) (fun m => by cases m <;> decide) (by decide)

/-- A 4x4 probe and the search of its block agree (R121; 41_luma4x4.md R90). -/
theorem selectI4_agrees (m : I4Mode) (p : Predictor) (src : List Byte) {cost : Word} {field : Nat}
    (hcost : cost.toNat = (selectI4 p src).cost) (hfield : field = (selectI4 p src).mode) (blk : Nat) :
    ProbeAgrees (probeStatWord (m.legal p.av) 0 m.num blk) (BitVec.ofNat 32 (sad (m.block p) src)) cost field m.num := by
  obtain ⟨selects, -, -⟩ := selectionsPickFirstCheapestLegal
  obtain ⟨chosen, hlegal, hsel, hleast⟩ := selects p src
  rw [hsel] at hcost hfield
  refine probeAgrees_of_search (fun hm => (hleast m hm).1) (fun h => ?_) hcost hfield ((sad_le _ _).trans (by simp)) 0 blk
  obtain rfl := I4Mode.num_injective h
  exact ⟨hlegal, rfl⟩

/-- A 16x16 probe and the 16x16 search agree (R122; 42_luma16x16.md R97). -/
theorem selectI16_agrees (m : I16Mode) (p : Predictor) (src : List Byte) {cost : Word} {field : Nat}
    (hcost : cost.toNat = (selectI16 p src).cost) (hfield : field = (selectI16 p src).mode) :
    ProbeAgrees (probeStatWord (m.legal p.av) 1 m.num 0) (BitVec.ofNat 32 (sad (m.block p) src)) cost field m.num := by
  obtain ⟨-, selects, -⟩ := selectionsPickFirstCheapestLegal
  obtain ⟨chosen, hlegal, hsel, hleast⟩ := selects p src
  rw [hsel] at hcost hfield
  refine probeAgrees_of_search (fun hm => (hleast m hm).1) (fun h => ?_) hcost hfield ((sad_le _ _).trans (by simp)) 1 0
  obtain rfl := I16Mode.num_injective h
  exact ⟨hlegal, rfl⟩

/-- A chroma mode's two SADs are at most 255 a sample (43_chroma8x8.md R103). -/
theorem CMode.candidate_cost_le (m : CMode) (pb pr : Predictor) (srcCb srcCr : List Byte) :
    (m.candidate pb pr srcCb srcCr).cost ≤ 65280 := by
  have hb := sad_le (m.block pb) srcCb
  have hr := sad_le (m.block pr) srcCr
  rw [length_CMode_block] at hb hr
  simp only [CMode.candidate, CCandidate.cost]
  omega

/-- A chroma probe and the chroma search agree (R123; 43_chroma8x8.md R103). -/
theorem selectC_agrees (m : CMode) (pb pr : Predictor) (srcCb srcCr : List Byte) {cost : Word} {field : Nat}
    (hcost : cost.toNat = (selectC pb pr srcCb srcCr).cost) (hfield : field = (selectC pb pr srcCb srcCr).mode) :
    ProbeAgrees (probeStatWord (m.legal pb.av) 2 m.num 0) (BitVec.ofNat 32 (m.candidate pb pr srcCb srcCr).cost) cost field
      m.num := by
  obtain ⟨-, -, selects⟩ := selectionsPickFirstCheapestLegal
  obtain ⟨chosen, hlegal, hsel, hleast⟩ := selects pb pr srcCb srcCr
  rw [hsel] at hcost hfield
  refine probeAgrees_of_search (fun hm => (hleast m hm).1) (fun h => ?_) hcost hfield (m.candidate_cost_le _ _ _ _) 2 0
  obtain rfl := CMode.num_injective h
  exact ⟨hlegal, rfl⟩

/-- Settles O37: block `k` of the pass is the search on the very Predictor the probe evaluates. -/
theorem probe4x4AgreesWithPredict : Obligations.Probe4x4AgreesWithPredict := by
  intro s t u l m k hr ht hu
  obtain rfl := Host.Outcome.next.inj ((exec_probe4 hr m k).symm.trans ht)
  obtain rfl := eq_commit_of_exec hr hu
  have he := evaluate_bounded s l.bsrc l.idx.toNat
  have hk : (s.evaluate l.bsrc l.idx.toNat).i4[k.val]? = _ := i4Chain_getElem? s l.bsrc l.idx.toNat k.isLt
  have hcost := toNat_i4CostVector he.count he.cost4 hk
  have hfield := i4best_field he hk
  exact selectI4_agrees m _ _ hcost hfield k

/-- The mode fields of `RESULT` (10_state.md R29). -/
theorem resultWord_modes {e : Evaluation} (he : e.Bounded) :
    ((resultWord e.isI16 e.pcm e.i16.mode e.c.mode).extractLsb' 4 4).toNat = e.i16.mode ∧
      ((resultWord e.isI16 e.pcm e.i16.mode e.c.mode).extractLsb' 8 4).toNat = e.c.mode := by
  have hw := toNat_resultWord he
  have := Bool.toNat_le e.isI16
  have := Bool.toNat_le e.pcm
  have := he.mode16
  have := he.modeC
  rw [extractLsb'_toNat_bitField, extractLsb'_toNat_bitField, bitField, bitField]
  omega

/-- Settles O38: each search runs on the Predictors the probe of its family evaluates. -/
theorem wholeBlockProbesAgreeWithPredict : Obligations.WholeBlockProbesAgreeWithPredict := by
  intro s u l hr hu
  obtain rfl := eq_commit_of_exec hr hu
  have he := evaluate_bounded s l.bsrc l.idx.toNat
  obtain ⟨hmode16, hmodeC⟩ := resultWord_modes he
  refine ⟨fun m t ht => ?_, fun m t ht => ?_⟩
  · obtain rfl := Host.Outcome.next.inj ((exec_probe16 hr m).symm.trans ht)
    refine selectI16_agrees m _ _ ?_ hmode16
    have := he.cost16
    exact Nat.mod_eq_of_lt (by omega)
  · obtain rfl := Host.Outcome.next.inj ((exec_probeC hr m).symm.trans ht)
    refine selectC_agrees m _ _ _ _ ?_ hmodeC
    have := he.costCb
    have := he.costCr
    exact Nat.mod_eq_of_lt (by unfold CCandidate.cost; omega)

end Sys2Proof.Machine
end

section
/-! PROOFS. Command errors and the interrupt (60_exceptions.md R124 to R132): the codes of the errors, that a command error leaves
everything but `STATUS` alone, and when the interrupt output is high. -/

namespace Sys2Proof.Machine

/-! ### Command errors -/

/-- The codes of the command errors are 1 to 6 (R124). -/
theorem CmdError.code_range (e : CmdError) : 1 ≤ e.code.toNat ∧ e.code.toNat ≤ 6 := by cases e <;> decide

/-- While a command is in flight `ERR` is 0, and a result of its execution leaves it so (10_state.md R21, 45_commands.md R115). -/
theorem Executed.err_eq_false {i : Instr} {l : Latch} {s t : State} (hx : Executed i l s t) (h : s.statusOk)
    (hb : s.busy = true) : t.status.err = false := by
  obtain ⟨⟨-, -, -, hflags⟩, htb⟩ := hx.statusOk_busy h hb
  exact (hflags htb).2

/-- Settles O28: only the error entry sets `ERR`, and it writes nothing but `STATUS`. -/
theorem commandErrorsArePrecise : Obligations.CommandErrorsArePrecise := by
  intro s t l i hs hl ht herr
  rcases exec_cases hl ht with ⟨e, -, rfl⟩ | ⟨u, -, hx, rfl⟩
  · exact ⟨rfl, e.code_range⟩
  · have hu : u.status.err = false := hx.err_eq_false hs (by rw [State.busy, hl]; rfl)
    rw [State.succeed_err, hu] at herr
    cases herr

/-! ### The interrupt output -/

/-- While a command is in flight the interrupt output is low: issue has cleared both flags (R132). -/
theorem irq_eq_false_of_busy {s : State} (h : s.statusOk) (hb : s.busy = true) : s.irq = false := by
  obtain ⟨-, -, -, hflags⟩ := h
  obtain ⟨hdone, herr⟩ := hflags hb
  simp only [State.irq, hdone, herr, Bool.or_false, Bool.and_false]

/-- With `DONE` or `ERR` set the interrupt output is `IRQ_EN` (R132). -/
theorem irq_eq_irqEn {s : State} (h : s.status.done = true ∨ s.status.err = true) : s.irq = s.irqEn := by
  rw [State.irq, (Bool.or_eq_true ..).mpr h, Bool.and_true]

/-- Settles O22: both flags are 0 in flight, and the engine's turn sets one of them and does not reach `IRQ_EN`. -/
theorem interruptFollowsCompletion : Obligations.InterruptFollowsCompletion := by
  refine ⟨fun _ => rfl, fun s hs hb => irq_eq_false_of_busy hs hb, fun s l rest hl hscript => ?_⟩
  have hturn : s.script = [] ∨ ∃ rest, s.script = .engine :: rest := .inr ⟨rest, hscript⟩
  obtain ⟨t, ht, -, -, hflags⟩ := engineTurnCompletes s hturn
  obtain ⟨-, hirqEn, -⟩ := engineNeverWritesItsInputs s t hturn ht
  have hcompleted : t.status.done = true ∨ t.status.err = true := hflags (by rw [hl]; rfl)
  exact ⟨t, ht, (irq_eq_irqEn hcompleted).trans hirqEn⟩

end Sys2Proof.Machine
end

section
/-! PROOFS. Reset and hazards (70_reset_and_hazards.md R137 to R151): what a reset event leaves, that the reset state meets the
invariants, that a command depends on nothing the host's reads change, and what the evaluation of a macroblock reads. -/

namespace Sys2Proof.Machine

/-! ### What an evaluation is made of -/

section
variable {s t : State} {n : Nat}

/-- Two states with the same `SRC_Y` and the same Predictors of the first `k` blocks make the same choices in them (R91). -/
theorem i4Chain_congr (b : Bool) (hsrc : t.srcY = s.srcY) {k : Nat}
    (h4 : ∀ intra j, j < k → t.predictor4 n intra j = s.predictor4 n intra j) : t.i4Chain b n k = s.i4Chain b n k := by
  induction k with
  | zero => rfl
  | succ k ih =>
    have hbefore := ih fun intra j hj => h4 intra j (by omega)
    simp only [State.i4Chain, hbefore, hsrc, h4 _ k (Nat.lt_succ_self k)]

/-- Two states with the same SRC and the same Predictors evaluate a macroblock alike (R119). -/
theorem evaluate_congr (b : Bool) (hY : t.srcY = s.srcY) (hCb : t.srcCb = s.srcCb) (hCr : t.srcCr = s.srcCr)
    (h4 : ∀ intra k, k < 16 → t.predictor4 n intra k = s.predictor4 n intra k)
    (h16 : t.predictor16 n = s.predictor16 n)
    (hC : ∀ base, base = dntCbBase ∨ base = dntCrBase → t.predictorC base n = s.predictorC base n) :
    t.evaluate b n = s.evaluate b n := by
  simp only [State.evaluate, State.i4Pass, i4Chain_congr b hY h4, hY, hCb, hCr, h16, hC _ (.inl rfl), hC _ (.inr rfl)]

end

/-! ### Samples of earlier macroblocks -/

/-- The sample at column `X`, row `Y` of a plane with `u` by `u` samples a macroblock lies in the frame's width, in a macroblock
before `n` (R69, R72). -/
def SampleBefore (u c n X Y : Nat) : Prop := X < u * c ∧ Y / u * c + X / u < n

/-- Every sample above the row of macroblock `n` is of an earlier one. -/
theorem sampleBefore_above {u c n X Y : Nat} (hX : X < u * c) (hY : Y < u * (n / c)) : SampleBefore u c n X Y := by
  have hcol : X / u < c := Nat.div_lt_of_lt_mul hX
  have hrow : (Y / u + 1) * c ≤ n / c * c := Nat.mul_le_mul_right c (Nat.div_lt_of_lt_mul hY)
  have hn := Nat.div_add_mod' n c
  rw [Nat.add_mul] at hrow
  exact ⟨hX, by omega⟩

/-- Every sample to the left of macroblock `n`, in its row, is of an earlier one. -/
theorem sampleBefore_left {u c n X Y : Nat} (hc : 0 < c) (hX : X < u * (n % c)) (hY : Y < u * (n / c) + u) :
    SampleBefore u c n X Y := by
  have hcol : X / u < n % c := Nat.div_lt_of_lt_mul hX
  have hrow : Y / u * c ≤ n / c * c :=
    Nat.mul_le_mul_right c (Nat.le_of_lt_succ (Nat.div_lt_of_lt_mul (by rwa [Nat.mul_succ])))
  have hn := Nat.div_add_mod' n c
  exact ⟨hX.trans_le (Nat.mul_le_mul_left u (Nat.mod_lt n hc).le), by omega⟩

/-- The border of macroblock `n` in a plane of samples `f`, `u` of them a side: the Predictors of R78 and R79. -/
def mbBorder (u c n : Nat) (f : Nat → Nat → Int) : Predictor where
  corner := if (mbAvail c n).upleft then f (u * (n % c) - 1) (u * (n / c) - 1) else Config.defaultSample
  up := (List.range u).map fun x => if (mbAvail c n).up then f (u * (n % c) + x) (u * (n / c) - 1) else Config.defaultSample
  left := (List.range u).map fun y => if (mbAvail c n).left then f (u * (n % c) - 1) (u * (n / c) + y) else Config.defaultSample
  av := (mbAvail c n).toAvail

theorem predictor16_eq (s : State) (n : Nat) : s.predictor16 n = mbBorder 16 s.mbCols.toNat n s.dntY := rfl

theorem predictorC_eq (s : State) (base n : Nat) : s.predictorC base n = mbBorder 8 s.mbCols.toNat n (s.dntC base) := rfl

/-- The available border of a macroblock is made of samples of earlier macroblocks. -/
theorem mbBorder_congr {u c n : Nat} {f g : Nat → Nat → Int} (hu : 0 < u) (hc : 0 < c)
    (h : ∀ X Y, SampleBefore u c n X Y → f X Y = g X Y) : mbBorder u c n f = mbBorder u c n g := by
  have hcol : u * (n % c) + u ≤ u * c := Nat.mul_le_mul_left u (Nat.mod_lt n hc)
  have above {X : Nat} (hX : X < u * (n % c) + u) (hr : 0 < n / c) :
      f X (u * (n / c) - 1) = g X (u * (n / c) - 1) :=
    h _ _ (sampleBefore_above (by omega) (Nat.sub_one_lt (Nat.mul_pos hu hr).ne'))
  have left {y : Nat} (hy : y < u) (hl : 0 < n % c) :
      f (u * (n % c) - 1) (u * (n / c) + y) = g (u * (n % c) - 1) (u * (n / c) + y) :=
    h _ _ (sampleBefore_left hc (Nat.sub_one_lt (Nat.mul_pos hu hl).ne') (by omega))
  simp only [mbBorder, Predictor.mk.injEq, List.map_inj_left, List.mem_range, and_true]
  refine ⟨if_ctx_congr Iff.rfl (fun hav => ?_) fun _ => rfl, fun x hx => if_ctx_congr Iff.rfl (fun hav => ?_) fun _ => rfl,
    fun y hy => if_ctx_congr Iff.rfl (fun hav => ?_) fun _ => rfl⟩
  · exact above (by omega) ((mbAvail_upleft c n).1 hav).1
  · exact above (by omega) ((mbAvail_up c n).1 hav)
  · exact left hy ((mbAvail_left c n).1 hav)

/-! ### Two memories that agree on what prediction may read -/

/-- Two states with frames of the same width that agree on SRC and on the DNT samples of the macroblocks before `n`. -/
structure State.AgreeBefore (s t : State) (n : Nat) : Prop where
  cols : t.mbCols = s.mbCols
  pos : 0 < s.mbCols.toNat
  srcY : t.srcY = s.srcY
  srcCb : t.srcCb = s.srcCb
  srcCr : t.srcCr = s.srcCr
  dntY : ∀ X Y, SampleBefore 16 s.mbCols.toNat n X Y → t.dntY X Y = s.dntY X Y
  dntC : ∀ base X Y, base = dntCbBase ∨ base = dntCrBase → SampleBefore 8 s.mbCols.toNat n X Y →
    t.dntC base X Y = s.dntC base X Y

section
variable {s t : State} {n : Nat}

theorem State.AgreeBefore.predictor16 (h : s.AgreeBefore t n) : t.predictor16 n = s.predictor16 n := by
  rw [predictor16_eq, predictor16_eq, h.cols]
  exact mbBorder_congr (by decide) h.pos h.dntY

theorem State.AgreeBefore.predictorC (h : s.AgreeBefore t n) (base : Nat) (hb : base = dntCbBase ∨ base = dntCrBase) :
    t.predictorC base n = s.predictorC base n := by
  rw [predictorC_eq, predictorC_eq, h.cols]
  exact mbBorder_congr (by decide) h.pos fun X Y => h.dntC base X Y hb

/-- Inside macroblock `n`, left of it in its row, and everywhere above it, prediction sees the same luma samples (R75). -/
theorem State.AgreeBefore.lumaAt (h : s.AgreeBefore t n) (intra : List (List Byte)) {X Y : Nat}
    (hXY : X < s.lumaX n + 16 ∧ Y < s.lumaY n + 16 ∨ X < 16 * s.mbCols.toNat ∧ Y < s.lumaY n) :
    t.lumaAt n intra X Y = s.lumaAt n intra X Y := by
  have hcol := Nat.mod_lt n h.pos
  simp only [State.lumaAt, State.lumaX, State.lumaY, mbCol, mbRow, h.cols] at hXY ⊢
  refine if_ctx_congr Iff.rfl (fun _ => rfl) fun hout => h.dntY X Y ?_
  rcases Nat.lt_or_ge Y (16 * (n / s.mbCols.toNat)) with hY | hY
  · exact sampleBefore_above (by omega) hY
  · exact sampleBefore_left h.pos (by omega) (by omega)

/-- A block in the right column has an up-right border only in the top row, and only with its macroblock (R74). -/
theorem blkAvail_upright_of_right_column {av : MbAvail} {k : Nat} (h : (blkAvail av k).upright = true) (hx : blkX k = 3) :
    blkY k = 0 ∧ av.upright = true := by
  by_cases hy : blkY k = 0 <;> simp_all [blkAvail]

theorem State.AgreeBefore.predictor4 (h : s.AgreeBefore t n) (intra : List (List Byte)) (k : Nat) (hk : k < 16) :
    t.predictor4 n intra k = s.predictor4 n intra k := by
  have hx := blkX_lt k
  have hy := blkY_lt hk
  have hX : t.lumaX n = s.lumaX n := by rw [State.lumaX, State.lumaX, h.cols]
  have hY : t.lumaY n = s.lumaY n := by rw [State.lumaY, State.lumaY, h.cols]
  have near {X Y : Nat} (hXY : X < s.lumaX n + 16 ∧ Y < s.lumaY n + 16) : t.lumaAt n intra X Y = s.lumaAt n intra X Y :=
    h.lumaAt intra (.inl hXY)
  have right {i : Nat} (hi : i < 8) (d : Int) :
      (if (blkAvail (mbAvail s.mbCols.toNat n) k).upright then
        t.lumaAt n intra (s.lumaX n + 4 * blkX k + i) (s.lumaY n + 4 * blkY k - 1) else d) =
      if (blkAvail (mbAvail s.mbCols.toNat n) k).upright then
        s.lumaAt n intra (s.lumaX n + 4 * blkX k + i) (s.lumaY n + 4 * blkY k - 1) else d := by
    refine if_ctx_congr Iff.rfl (fun hav => h.lumaAt intra ?_) fun _ => rfl
    rcases Nat.lt_or_ge (blkX k) 3 with h3 | h3
    · exact .inl (by omega)
    · obtain ⟨hy0, hmb⟩ := blkAvail_upright_of_right_column hav (by omega)
      obtain ⟨hrow, hcol⟩ := (mbAvail_upright ..).1 hmb
      exact .inr (by simp only [State.lumaX, State.lumaY, mbCol, mbRow]; omega)
  have hrows : List.range 4 = [0, 1, 2, 3] := rfl
  simp (disch := omega) only [State.predictor4, hX, hY, h.cols, hrows, List.map, near, right]

end

/-- Settles O50: every border sample that is not of macroblock `n` itself is of an earlier one. -/
theorem predictionReadsOnlyEarlierMacroblocks : Obligations.PredictionReadsOnlyEarlierMacroblocks := by
  intro s m b n hg hn C hsrc hdntY hdntC
  have src {a len : Nat} (ha : 0x001000 ≤ a) (hl : a + len ≤ 0x001180) : m.readRun a len = s.mem.readRun a len :=
    Memory.readRun_congr fun i hi => by
      have hi' := hsrc (a + i - 0x001000) (by omega)
      rwa [Nat.add_sub_of_le (by omega)] at hi'
  have h : s.AgreeBefore { s with mem := m } n :=
    { cols := rfl
      pos := (inFrame_of_ready hg hn).cols
      srcY := src (by decide) (by decide)
      srcCb := src (by decide) (by decide)
      srcCr := src (by decide) (by decide)
      dntY := fun X Y hXY => congrArg sampleOf (hdntY X Y hXY.1 hXY.2)
      dntC := fun base X Y hb hXY => congrArg sampleOf (hdntC base X Y hb hXY.1 hXY.2) }
  exact evaluate_congr b h.srcY h.srcCb h.srcCr h.predictor4 h.predictor16 h.predictorC

/-! ### What a command does not read -/

/-- The state with the model's own fields replaced: the coming events, the last answer and the count of draws (logs 3, 5, 6). -/
def State.withHost (script : List Event) (bus : Option Response) (draws : Nat) (s : State) : State :=
  { s with script := script, bus := bus, draws := draws }

section
variable (script : List Event) (bus : Option Response) (draws : Nat)

theorem evaluate_withHost (s : State) (b : Bool) (n : Nat) : (s.withHost script bus draws).evaluate b n = s.evaluate b n :=
  evaluate_congr b rfl rfl rfl (fun _ _ _ => rfl) rfl fun _ _ => rfl

theorem probe4_withHost (s : State) (b : Bool) (n : Nat) (m : I4Mode) (k : Nat) :
    (s.withHost script bus draws).probe4 b n m k = s.probe4 b n m k := by
  have hchain : (s.withHost script bus draws).i4Chain b n k = s.i4Chain b n k :=
    i4Chain_congr (t := s.withHost script bus draws) (s := s) b rfl fun _ _ _ => rfl
  simp only [State.probe4, hchain]
  rfl

theorem frameInit_withHost (s : State) :
    (s.withHost script bus draws).frameInit = s.frameInit.map (State.withHost script bus draws) := by
  simp only [State.frameInit, apply_ite (Except.map (State.withHost script bus draws))]
  rfl

theorem predictMb_withHost (l : Latch) (s : State) :
    (s.withHost script bus draws).predictMb l = (s.predictMb l).map (State.withHost script bus draws) := by
  have hcheck : (s.withHost script bus draws).checkMb l = s.checkMb l := rfl
  rw [State.predictMb, State.predictMb, hcheck]
  cases s.checkMb l with
  | error e => rfl
  | ok n => simp only [evaluate_withHost]; rfl

theorem probe_withHost (kind mode blk : Nat) (eval : Bool → Nat → ProbeResult) (l : Latch) (s : State) :
    (s.withHost script bus draws).probe kind mode blk eval l =
      (s.probe kind mode blk eval l).map (State.withHost script bus draws) := by
  have hcheck : (s.withHost script bus draws).checkMb l = s.checkMb l := rfl
  rw [State.probe, State.probe, hcheck]
  cases s.checkMb l <;> rfl

/-- The execution of a command neither reads nor writes these fields. -/
theorem bodyOf_withHost (i : Instr) (l : Latch) (s : State) :
    bodyOf i l (s.withHost script bus draws) = (bodyOf i l s).map (State.withHost script bus draws) := by
  rcases Instr.cases_kind i with rfl | rfl | rfl | ⟨m, k, rfl⟩ | ⟨m, rfl⟩ | ⟨m, rfl⟩
  · rfl
  · exact frameInit_withHost script bus draws s
  · exact predictMb_withHost script bus draws l s
  · simp only [bodyOf_probe4, probe4_withHost]
    exact probe_withHost script bus draws ..
  · rw [bodyOf_probe16, bodyOf_probe16]
    exact probe_withHost script bus draws ..
  · rw [bodyOf_probeC, bodyOf_probeC]
    exact probe_withHost script bus draws ..

/-- Completion keeps these fields, so a command in flight runs without reading or writing them (R115). -/
theorem runCommand_withHost_inflight {s : State} {l : Latch} (h : s.inflight = some l) (i : Instr) (w : Word) :
    (s.withHost script bus draws).runCommand w (bodyOf i) = (s.runCommand w (bodyOf i)).withHost script bus draws := by
  rw [State.runCommand_inflight h, State.runCommand_inflight (s := s.withHost script bus draws) h, bodyOf_withHost]
  cases bodyOf i l s <;> rfl

/-- Issue keeps these fields too, so a command at an idle engine runs without reading or writing them (R114). -/
theorem runCommand_withHost (s : State) (i : Instr) (w : Word) :
    (s.withHost script bus draws).runCommand w (bodyOf i) = (s.runCommand w (bodyOf i)).withHost script bus draws := by
  cases h : s.inflight with
  | some l => exact runCommand_withHost_inflight script bus draws h i w
  | none =>
    rw [State.runCommand_issue h, State.runCommand_issue (s := s.withHost script bus draws) h]
    exact runCommand_withHost_inflight script bus draws (State.issue_inflight w s) i w

end

/-- Settles O10: the command runs without reading the three fields, and leaves them as they stand. -/
theorem latencyDoesNotMatter : Obligations.LatencyDoesNotMatter := by
  intro s i script bus draws
  refine ⟨_, exec_eq i s, (exec_eq i _).trans (congrArg Host.Outcome.next ?_)⟩
  exact runCommand_withHost script bus draws s i (encode i)

/-! ### Reset -/

/-- Settles O23: the step is the reset event, whose registers are those of `State.reset`. -/
theorem resetEventResets : Obligations.ResetEventResets := by
  intro s contents rest hs
  have ht : step s = .next (({ s with script := rest } : State).resetEvent contents) := by rw [step, hs]; rfl
  have hstatus : State.reset.statusWord = 0#32 := by decide
  exact ⟨_, ht, rfl, wf_memoryOf contents, memoryOf_canonical, hstatus, rfl, rfl⟩

/-- Settles O54: each invariant at the reset state, then the registers one by one. -/
theorem resetMeetsTheInvariants : Obligations.ResetMeetsTheInvariants := by
  refine ⟨⟨⟨.nil, nofun⟩, nofun, statusOk_reset, geometryOk_reset, nofun, costsOk_reset, .inl rfl⟩, rfl, rfl, rfl, rfl, rfl, ?_⟩
  intro r hid hluma hchroma
  cases r
  case id => exact absurd rfl hid
  case thrLuma => exact absurd rfl hluma
  case thrChroma => exact absurd rfl hchroma
  case i4cost k => exact i4cost_reset k
  all_goals rfl

end Sys2Proof.Machine
end

section
/-! PROOFS. Constant borders (95_test_vectors.md V5): averages of equal samples, a plane without slope, and what each mode of the
three families predicts from them. -/

namespace Sys2Proof.Machine

/-! ### Borders of equal samples -/

/-- Up to the end of its border every sample a mode reads above the block is `v`, the corner too. -/
theorem Predictor.top_eq_of_constant {p : Predictor} {v : Int} (hc : p.corner = v) (hu : ∀ u ∈ p.up, u = v) {n : Nat}
    (hn : p.up.length = n) (i : Int) (hi : i < n) : p.top i = v := by
  unfold Predictor.top
  split
  · exact hc
  · rw [List.getD_eq_getElem _ _ (by omega)]
    exact hu _ (List.getElem_mem _)

/-- The same on the left. -/
theorem Predictor.side_eq_of_constant {p : Predictor} {v : Int} (hc : p.corner = v) (hl : ∀ u ∈ p.left, u = v) {n : Nat}
    (hn : p.left.length = n) (j : Int) (hj : j < n) : p.side j = v :=
  Predictor.top_eq_of_constant (p := p.transpose) hc hl hn j hj

/-! ### Averages of equal samples -/

/-- The weights of each average add up to its divisor, and the rounding term is less than that. -/
theorem avg2_same (v : Int) : shr (v + v + 1) 1 = v := by
  simp only [shr]; omega

theorem avg121_same (v : Int) : shr (v + 2 * v + v + 2) 2 = v := by
  simp only [shr]; omega

theorem avg13_same (v : Int) : shr (v + 3 * v + 2) 2 = v := by
  simp only [shr]; omega

theorem avg4_same (v : Int) : shr (v + v + v + v + 2) 2 = v := by
  simp only [shr]; omega

theorem avg8_same (v : Int) : shr (v + v + v + v + (v + v + v + v) + 4) 3 = v := by
  simp only [shr]; omega

theorem avg32_same (v : Int) : shr (16 * v + 16 * v + 16) 5 = v := by
  simp only [shr]; omega

/-- A sum of equal terms. -/
theorem sumTo_eq_mul {n : Nat} {f : Nat → Int} {v : Int} (h : ∀ i < n, f i = v) : sumTo n f = n * v := by
  have hterm : ∀ a ∈ (List.range n).map f, a = v := by simpa using h
  rw [sumTo, List.sum_eq_card_nsmul _ v hterm]
  simp

/-! ### The modes of a 4x4 block -/

section
variable {p : Predictor} {v : Int} {x y : Nat}

/-- With both sides there DC averages eight samples (R83). -/
theorem i4Dc_constant (hau : p.av.up = true) (hal : p.av.left = true) (ht : ∀ i < 4, p.top i = v) (hs : ∀ j < 4, p.side j = v)
    (x y : Int) : i4Dc p x y = v := by
  have hboth : (p.av.up && p.av.left) = true := by rw [hau, hal]; rfl
  unfold i4Dc
  rw [if_pos hboth]
  simp (disch := decide) only [ht, hs]
  exact avg8_same v

/-- Only the last position of the block would read past the border, and has its own equation (R84). -/
theorem i4Ddl_constant (ht : ∀ i < 8, p.top i = v) (hx : x < 4) (hy : y < 4) : i4Ddl p x y = v := by
  unfold i4Ddl
  split
  · rw [ht 6 (by decide), ht 7 (by decide)]
    exact avg13_same v
  · simp (disch := omega) only [ht]
    exact avg121_same v

theorem i4Ddr_constant (hc : p.corner = v) (ht : ∀ i < 4, p.top i = v) (hs : ∀ j < 4, p.side j = v) (hx : x < 4) (hy : y < 4) :
    i4Ddr p x y = v := by
  unfold i4Ddr
  split_ifs
  · simp (disch := omega) only [ht]
    exact avg121_same v
  · simp (disch := omega) only [hs]
    exact avg121_same v
  · rw [ht 0 (by decide), hs 0 (by decide), hc]
    exact avg121_same v

theorem i4Vr_constant (hc : p.corner = v) (ht : ∀ i < 4, p.top i = v) (hs : ∀ j < 4, p.side j = v) (hx : x < 4) (hy : y < 4) :
    i4Vr p x y = v := by
  have hhalf : 0 ≤ shr y 1 := by simp only [shr]; omega
  unfold i4Vr
  dsimp only
  split_ifs
  · simp (disch := omega) only [ht]
    exact avg2_same v
  · simp (disch := omega) only [ht]
    exact avg121_same v
  · rw [ht 0 (by decide), hs 0 (by decide), hc]
    exact avg121_same v
  · simp (disch := omega) only [hs]
    exact avg121_same v

/-- Horizontal_Down is Vertical_Right on the exchanged borders. -/
theorem i4Hd_constant (hc : p.corner = v) (ht : ∀ i < 4, p.top i = v) (hs : ∀ j < 4, p.side j = v) (hx : x < 4) (hy : y < 4) :
    i4Hd p x y = v := by
  rw [i4Hd_eq_i4Vr_transpose]
  exact i4Vr_constant (p := p.transpose) hc hs ht hy hx

theorem i4Vl_constant (ht : ∀ i < 8, p.top i = v) (hx : x < 4) (hy : y < 4) : i4Vl p x y = v := by
  have hhalf : shr y 1 < 2 := by simp only [shr]; omega
  unfold i4Vl
  split
  · simp (disch := omega) only [ht]
    exact avg2_same v
  · simp (disch := omega) only [ht]
    exact avg121_same v

/-- `zHU` bounds the index: past 5 the equation repeats the last sample (R89). -/
theorem i4Hu_constant (hs : ∀ j < 4, p.side j = v) : i4Hu p x y = v := by
  have hhalf : 2 * shr x 1 ≤ x := by simp only [shr]; omega
  unfold i4Hu
  dsimp only
  split_ifs
  · simp (disch := omega) only [hs]
    exact avg2_same v
  · simp (disch := omega) only [hs]
    exact avg121_same v
  · rw [hs 2 (by decide), hs 3 (by decide)]
    exact avg13_same v
  · exact hs 3 (by decide)

/-- Every 4x4 mode on a constant border: Diagonal_Down_Left and Vertical_Left alone read the up-right samples. -/
theorem I4Mode.value_constant (hau : p.av.up = true) (hal : p.av.left = true) (hc : p.corner = v) (ht : ∀ i < 8, p.top i = v)
    (hs : ∀ j < 4, p.side j = v) (hx : x < 4) (hy : y < 4) (m : I4Mode) : m.value p x y = v := by
  have ht4 : ∀ i < 4, p.top i = v := fun i hi => ht i (by omega)
  cases m with
  | v => exact ht x (by omega)
  | h => exact hs y (by omega)
  | dc => exact i4Dc_constant hau hal ht4 hs x y
  | ddl => exact i4Ddl_constant ht hx hy
  | ddr => exact i4Ddr_constant hc ht4 hs hx hy
  | vr => exact i4Vr_constant hc ht4 hs hx hy
  | hd => exact i4Hd_constant hc ht4 hs hx hy
  | vl => exact i4Vl_constant ht hx hy
  | hu => exact i4Hu_constant hs

/-! ### The 16x16 modes -/

/-- A plane through equal corners without slope, at any distance from the middle (R96, R102). -/
theorem clip1_flat_plane (h0 : 0 ≤ v) (h255 : v ≤ 255) {b c : Int} (hb : b = 0) (hc : c = 0) (dx dy : Int) :
    clip1 (shr (16 * (v + v) + b * dx + c * dy + 16) 5) = v := by
  have hsum : 16 * (v + v) + b * dx + c * dy + 16 = 16 * v + 16 * v + 16 := by rw [hb, hc]; ring
  rw [hsum, avg32_same, clip1, max_eq_left h0, min_eq_left h255]

/-- The slope of a plane is that of its gradient, scaled and rounded: 0 from 0 (R96, R102). -/
theorem slope_of_zero (k : Int) {g : Int} (hg : g = 0) : shr (k * g + 32) 6 = 0 := by
  rw [hg, mul_zero]
  rfl

/-- With both sides there DC averages 32 samples (R95). -/
theorem i16Dc_constant (hau : p.av.up = true) (hal : p.av.left = true) (ht : ∀ i < 16, p.top i = v)
    (hs : ∀ j < 16, p.side j = v) (x y : Int) : i16Dc p x y = v := by
  have hboth : (p.av.up && p.av.left) = true := by rw [hau, hal]; rfl
  have hup : sumTo 16 (fun i => p.top i) = 16 * v := sumTo_eq_mul fun i hi => ht i (by omega)
  have hleft : sumTo 16 (fun j => p.side j) = 16 * v := sumTo_eq_mul fun j hj => hs j (by omega)
  unfold i16Dc
  rw [if_pos hboth, hup, hleft]
  exact avg32_same v

/-- Every difference in `H` is 0 (R96). -/
theorem i16PlaneH_constant (ht : ∀ i < 16, p.top i = v) : i16PlaneH p = 0 :=
  sumTo_eq_mul (v := 0) fun i hi => by rw [ht (8 + i) (by omega), ht (6 - i) (by omega), sub_self, mul_zero]

/-- `V` is `H` of the exchanged borders (R96). -/
theorem i16PlaneV_constant (hs : ∀ j < 16, p.side j = v) : i16PlaneV p = 0 :=
  i16PlaneH_constant (p := p.transpose) hs

theorem i16Plane_constant (h0 : 0 ≤ v) (h255 : v ≤ 255) (ht : ∀ i < 16, p.top i = v) (hs : ∀ j < 16, p.side j = v) (x y : Int) :
    i16Plane p x y = v := by
  unfold i16Plane
  rw [ht 15 (by decide), hs 15 (by decide)]
  exact clip1_flat_plane h0 h255 (slope_of_zero 5 (i16PlaneH_constant ht)) (slope_of_zero 5 (i16PlaneV_constant hs)) ..

theorem I16Mode.value_constant (h0 : 0 ≤ v) (h255 : v ≤ 255) (hau : p.av.up = true) (hal : p.av.left = true)
    (ht : ∀ i < 16, p.top i = v) (hs : ∀ j < 16, p.side j = v) (hx : x < 16) (hy : y < 16) (m : I16Mode) : m.value p x y = v := by
  cases m with
  | v => exact ht x (by omega)
  | h => exact hs y (by omega)
  | dc => exact i16Dc_constant hau hal ht hs x y
  | plane => exact i16Plane_constant h0 h255 ht hs x y

/-! ### The chroma modes -/

theorem quadUp_constant (ht : ∀ i < 8, p.top i = v) {xo : Int} (hxo : xo ≤ 4) : quadUp p xo = v + v + v + v := by
  simp (disch := omega) only [quadUp, ht]

theorem quadLeft_constant (hs : ∀ j < 8, p.side j = v) {yo : Int} (hyo : yo ≤ 4) : quadLeft p yo = v + v + v + v :=
  quadUp_constant (p := p.transpose) hs hyo

/-- The origin of a quadrant in one direction (R99). -/
theorem quadOrigin_le (x : Int) : (if x < 4 then 0 else 4 : Int) ≤ 4 := by
  split <;> decide

/-- With both sides there a quadrant averages both borders, the up one or the left one (R99). -/
theorem cDc_constant (hau : p.av.up = true) (hal : p.av.left = true) (ht : ∀ i < 8, p.top i = v) (hs : ∀ j < 8, p.side j = v)
    (x y : Int) : cDc p x y = v := by
  have hboth : (p.av.up && p.av.left) = true := by rw [hau, hal]; rfl
  unfold cDc
  dsimp only
  rw [quadUp_constant ht (quadOrigin_le x), quadLeft_constant hs (quadOrigin_le y), if_pos hboth, if_pos hau, if_pos hal,
    avg8_same, avg4_same, ite_self, ite_self]

/-- Every difference in `H` is 0 (R102). -/
theorem cPlaneH_constant (ht : ∀ i < 8, p.top i = v) : cPlaneH p = 0 :=
  sumTo_eq_mul (v := 0) fun i hi => by rw [ht (4 + i) (by omega), ht (2 - i) (by omega), sub_self, mul_zero]

/-- `V` is `H` of the exchanged borders (R102). -/
theorem cPlaneV_constant (hs : ∀ j < 8, p.side j = v) : cPlaneV p = 0 :=
  cPlaneH_constant (p := p.transpose) hs

theorem cPlane_constant (h0 : 0 ≤ v) (h255 : v ≤ 255) (ht : ∀ i < 8, p.top i = v) (hs : ∀ j < 8, p.side j = v) (x y : Int) :
    cPlane p x y = v := by
  unfold cPlane
  rw [ht 7 (by decide), hs 7 (by decide)]
  exact clip1_flat_plane h0 h255 (slope_of_zero 34 (cPlaneH_constant ht)) (slope_of_zero 34 (cPlaneV_constant hs)) ..

theorem CMode.value_constant (h0 : 0 ≤ v) (h255 : v ≤ 255) (hau : p.av.up = true) (hal : p.av.left = true)
    (ht : ∀ i < 8, p.top i = v) (hs : ∀ j < 8, p.side j = v) (hx : x < 8) (hy : y < 8) (m : CMode) : m.value p x y = v := by
  cases m with
  | dc => exact cDc_constant hau hal ht hs x y
  | h => exact hs y (by omega)
  | v => exact ht x (by omega)
  | plane => exact cPlane_constant h0 h255 ht hs x y

end

/-! ### All families -/

/-- Settles O44: every index a mode reads is the corner's or one of its border, so it averages copies of `v`. -/
theorem constantBorderIsPredicted : Obligations.ConstantBorderIsPredicted := by
  intro p v x y h0 h255 hc hu hl hau hal
  refine ⟨fun hup hleft hx hy => ?_, fun hup hleft hx hy => ?_, fun hup hleft hx hy => ?_⟩
  all_goals
    have ht := Predictor.top_eq_of_constant hc hu hup
    have hs := Predictor.side_eq_of_constant hc hl hleft
  · exact I4Mode.value_constant hau hal hc ht hs hx hy
  · exact I16Mode.value_constant h0 h255 hau hal ht hs hx hy
  · exact CMode.value_constant h0 h255 hau hal ht hs hx hy

end Sys2Proof.Machine
end
